-- ==== Sys2Proof/Word.lean ====
section
/-! DEFINITION. The word types: a byte of the wire and a byte sequence. The accumulators' word is `Acc` (Config.lean), since its width is
a parameter.

Rules: R10 (a byte is 8 bits, bit 7 the most significant), R11 (a byte sequence and its indices). -/

namespace Sys2Proof

/-- R10: a byte, bits 7 (most significant) down to 0. -/
abbrev Byte := BitVec 8

/-- R11: a byte sequence; its first element is the first byte sent or received. -/
abbrev Bytes := List Byte

end Sys2Proof
end

