-- ==== Sys2Proof/Config.lean ====
section
/-! DEFINITION. What an implementation fixes: the constants of R8 and the parameters of R9, at the values the spec takes.

R8: hardwired, no operation reads or writes them through a port. R9: each is the spec's own decision (92_eei_decisions.md), and
each stands here under its own name. The registry is `Machine.registry` (Machine/Registry.lean). The model has no free value: no rule leaves the result of an operation that
runs unstated. -/

namespace Sys2Proof.Config

/-- R8 `START`: the start marker, byte 0 of every frame. -/
def start : Byte := 0xAB#8

/-- R8 `MIN_FRAME_LEN`: the least total length the validator accepts. -/
def minFrameLen : Nat := 5

/-- R8 `MAX_FRAME_LEN`: the greatest total length the validator accepts. -/
def maxFrameLen : Nat := 12

/-- R8 `MAX_DATA_LEN`: the greatest length byte `N` the parser accepts. -/
def maxDataLen : Nat := 10

/-- R8 `OVERHEAD`: start, length, type and checksum bytes, which are not payload. -/
def overhead : Nat := 4

/-- R8 `KEY_SLOTS`: how many key codes the pressed-key set holds. -/
def keySlots : Nat := 6

/-- R8 `RELEASE_ALL`, R98: the payload value that means "release everything" to the peripheral. -/
def releaseAll : Byte := 0x00#8

/-- R8 `CODE_UNKNOWN`, R97: the wire code of the sentinel type, never sent. -/
def codeUnknown : Byte := 0xFF#8

/-- R9 `ACC_W`: the width in bits of the accumulators (decision D4). -/
abbrev accW : Nat := 32

/-- R9 `acc_add`, R212: the adder of the accumulators, two's-complement wrap modulo 2^`ACC_W` without an overflow flag (decision
D4). The machine adds with nothing else, so another adder put here replaces it everywhere. -/
def accAdd (a d : BitVec accW) : BitVec accW := a + d

/-- R9 `KEY_BASE`: the payload index of the byte stored in `KEY[0]` (decision D6; the alternative of U3 is 2). -/
def keyBase : Nat := 1

/-- R9 `LEN_CHECK`: on, the parser drops a frame whose `N` is not `LENGTHOF(type) - 2` (decision D7). -/
def lenCheck : Bool := true

/-- What a read does when the buffer runs out. The spec defines `abort` only (decision D8, U5). -/
inductive ShortRead where
  /-- the read reports `Short` at once -/
  | abort
  deriving DecidableEq, Repr

/-- R9 `SHORT_READ`, R179. -/
def shortRead : ShortRead := .abort

/-- How many frames one invocation examines. R181: `single` is the only defined value; that this type has no other
constructor is how the model refuses any other (decision D11, U6). -/
inductive ParseMode where
  /-- at most one frame, the one at the front of the buffer; then the whole buffer is discarded -/
  | single
  deriving DecidableEq, Repr

/-- R9 `PARSE_MODE`, R181. -/
def parseMode : ParseMode := .single

/-- R9 `PLEN_W`: the width of the length of the payload operand of ENCODE and TRANSMIT and of the operand of VALIDATE and
SEND, so that such an operand has at most 255 bytes (decision D18). -/
def plenW : Nat := 8

end Sys2Proof.Config

namespace Sys2Proof

/-- R20, R21: the content of an accumulator, `ACC_W` bits of two's complement. -/
abbrev Acc := BitVec Config.accW

end Sys2Proof
end

