-- ==== Sys2Proof/Machine/Operands.lean ====
section
/-! DEFINITION. How operands are read: bytes as numbers, slices, the cursor read, and the accumulators' adder.

R93: every operand is one whole byte; nothing is assembled from bits of several bytes, scaled or shifted. -/

namespace Sys2Proof.Machine

/-- R12: a byte as an unsigned number. -/
def u8 (v : Byte) : Nat := v.toNat

/-- R12: a byte as a two's-complement number, -128 to 127. -/
def s8 (v : Byte) : Int := v.toInt

/-- R12, R93: a delta byte sign-extended to `ACC_W` bits, the `sext_32` of R201. -/
def sext32 (v : Byte) : Acc := v.signExtend Config.accW

/-- R12: a number's zero extension to a byte; how the 5-bit `op_sel` of R104 stands in the first byte of a request. -/
def zext8 (v : BitVec 5) : Byte := v.zeroExtend 8

/-- R11: the half-open slice `b[i..j)`. -/
def slice (b : Bytes) (i j : Nat) : Bytes := (b.take j).drop i

/-- R212 `acc_add`: the configured adder. -/
def accAdd (a d : Acc) : Acc := Config.accAdd a d

/-- R34, R206, R207: an accumulator's value after SESSION_START and after a drain. -/
def accZero : Acc := 0#Config.accW

/-- R27: the parser's view of the inbound buffer during one invocation: the buffer and the byte cursor `cur`. Both are
transient (R31): they are no field of State. -/
structure RxCursor where
  buf : Bytes
  cur : Nat
  deriving DecidableEq, Repr

/-- R27, R170: the cursor at the start of an invocation. -/
def RxCursor.start (b : Bytes) : RxCursor := ⟨b, 0⟩

/-- R52 `RxRead(n)`: the next `n` bytes and the advanced cursor; `none` is `Short`, and the cursor stays. -/
def rxRead (n : Nat) (rx : RxCursor) : Option (Bytes × RxCursor) :=
  if rx.cur + n ≤ rx.buf.length then
    some (slice rx.buf rx.cur (rx.cur + n), ⟨rx.buf, rx.cur + n⟩)
  else
    match Config.shortRead with
    | .abort => none

end Sys2Proof.Machine
end

