-- ==== Sys2Proof/Machine/Checksum.lean ====
section
/-! DEFINITION. checksum_unit as functions of its operands (40_checksum.md). R123: the running register is scratch and need not
be modelled. -/

namespace Sys2Proof.Machine

/-- R120 XORSUM: the exclusive-or of all bytes, left to right, 0 for the empty range. -/
def xorsum (b : Bytes) : Byte := b.foldl (fun acc v => acc ^^^ v) 0x00#8

/-- R121 XORVALID: whether the checksum of `b` is `expected`. -/
def xorvalid (b : Bytes) (expected : Byte) : Bool := xorsum b == expected

end Sys2Proof.Machine
end

