-- ==== Sys2Proof/Syntax.lean ====
section
/-! DEFINITION. The operations and frames of the block as syntax: `FrameType`, the error kinds, the discard reasons, the result
of a parse, and `Instr`, one constructor for each of the 28 rows of spec/opcode_table.json (R104, R105). -/

namespace Sys2Proof

/-- R15, R133: the closed enumeration of frame types, the eight registered ones and the sentinel. -/
inductive FrameType where
  | setMousePos
  | setMouseScroll
  | setMousePress
  | setMouseRelease
  | setKeyboardPress
  | setKeyboardRelease
  | getMouseData
  | getKeyboardData
  /-- R97: values outside the registry; never transmitted -/
  | unknown
  deriving DecidableEq, Repr

/-- R230: the three error kinds an outgoing operation can return; there is no other. -/
inductive ErrorKind where
  /-- R231: unregistered type requested at encode time (LENGTHOF, ENCODE, TRANSMIT) -/
  | invalidFrameType
  /-- R232: the payload has not the length of its type (ENCODE, TRANSMIT) -/
  | payloadLengthMismatch
  /-- R233: the outgoing validator rejects the bytes (SEND) -/
  | invalidFrame
  deriving DecidableEq, Repr

/-- R170, R234: why an invocation yields no frame. Diagnostic only; no rule reads it (R180, R248). -/
inductive DiscardReason where
  | empty
  | noStart
  | badLength
  | short
  | badChecksum
  | unknownType
  | lengthMismatch
  deriving DecidableEq, Repr

/-- R14, R170: the result of PARSE. -/
inductive ParseResult where
  /-- a registered type code and its payload -/
  | frame (t : Byte) (payload : Bytes)
  /-- silent discard -/
  | noFrame (reason : DiscardReason)
  deriving DecidableEq, Repr

/-- One constructor per row of spec/opcode_table.json.

The first eight are the wire frames (R85 to R92): the checksum byte is a function of the others (R83, R105) and no operand.
The other twenty are the operations, with the operands their rules give them; a type operand is a wire code (R15, decision
D3), a `FrameType` only where the rule takes one (WIRECODE). -/
inductive Instr where
  /-- R85, R143 -/
  | setMousePos (x y : Byte)
  /-- R86, R144 -/
  | setMouseScroll (v : Byte)
  /-- R87, R145 -/
  | setMousePress (b : Byte)
  /-- R88, R146 -/
  | setMouseRelease (b : Byte)
  /-- R89, R147 -/
  | setKeyboardPress (k0 k1 : Byte)
  /-- R90, R148 -/
  | setKeyboardRelease (k0 k1 : Byte)
  /-- R91, R201 -/
  | getMouseData (b x y w h : Byte)
  /-- R92, R202 -/
  | getKeyboardData (m p1 p2 p3 p4 p5 p6 p7 : Byte)
  /-- R120 -/
  | xorsum (b : Bytes)
  /-- R121 -/
  | xorvalid (b : Bytes) (expected : Byte)
  /-- R132 -/
  | lengthof (t : Byte)
  /-- R134 -/
  | isvalidtype (t : Byte)
  /-- R133 -/
  | wiretypeof (v : Byte)
  /-- R133 -/
  | wirecode (T : FrameType)
  /-- R140 -/
  | encode (t : Byte) (p : Bytes)
  /-- R151 -/
  | validate (b : Bytes)
  /-- R155 -/
  | transmit (t : Byte) (p : Bytes)
  /-- R170, R183 -/
  | parse
  /-- R182 -/
  | invoke
  /-- R200 -/
  | dispatch (t : Byte) (p : Bytes)
  /-- R206 -/
  | drainPointer
  /-- R207 -/
  | drainScroll
  /-- R208 -/
  | peekButtons
  /-- R209 -/
  | peekModifier
  /-- R210 -/
  | peekKeys
  /-- R260 -/
  | sessionStart
  /-- R262 -/
  | sessionEnd
  /-- R154 -/
  | send (b : Bytes)
  deriving DecidableEq, Repr

/-- R16: the agents whose steps are operations (the transport's steps are no operation). -/
inductive Role where
  | producer
  | consumer
  | issuer
  | owner
  /-- the pure lookups and checksums, which the units of the block and any agent evaluate (R66, R124) -/
  | anyone
  deriving DecidableEq, Repr

/-- R16, R244: which agent performs an operation. The role follows from the operation, so no agent can take another's step:
the division of roles holds by construction. A wire frame is what an invocation of the producer receives (R178; log
entries 9 and 10). -/
def Instr.role : Instr → Role
  | .setMousePos _ _ | .setMouseScroll _ | .setMousePress _ | .setMouseRelease _ | .setKeyboardPress _ _
  | .setKeyboardRelease _ _ | .getMouseData _ _ _ _ _ | .getKeyboardData _ _ _ _ _ _ _ _ => .producer
  | .parse | .invoke | .dispatch _ _ => .producer
  | .drainPointer | .drainScroll | .peekButtons | .peekModifier | .peekKeys => .consumer
  | .encode _ _ | .validate _ | .transmit _ _ | .send _ => .issuer
  | .sessionStart | .sessionEnd => .owner
  | .xorsum _ | .xorvalid _ _ | .lengthof _ | .isvalidtype _ | .wiretypeof _ | .wirecode _ => .anyone

end Sys2Proof
end

