-- ==== Sys2Proof/Machine/Registry.lean ====
section
/-! DEFINITION. The Frame Registry ROM and its lookups (41_registry.md).

R30, R135: a read-only table, the same in every session and outside one; it is no part of State. -/

namespace Sys2Proof.Machine

/-- R130: one row of the registry. -/
structure RegistryRow where
  type : FrameType
  code : Byte
  /-- the total length `L`: start marker, length byte, type, payload and checksum -/
  length : Nat
  deriving DecidableEq, Repr

/-- R130, R84: the table. -/
def registry : List RegistryRow :=
  [ ⟨.setMousePos, 0xAA#8, 6⟩,
    ⟨.setMouseScroll, 0xAB#8, 5⟩,
    ⟨.setMousePress, 0xAC#8, 5⟩,
    ⟨.setMouseRelease, 0xAD#8, 5⟩,
    ⟨.setKeyboardPress, 0xBB#8, 6⟩,
    ⟨.setKeyboardRelease, 0xBC#8, 6⟩,
    ⟨.getMouseData, 0xCA#8, 9⟩,
    ⟨.getKeyboardData, 0xDA#8, 12⟩ ]

/-- R84: a type is found by comparing the code with the eight codes exactly. -/
def rowOf (t : Byte) : Option RegistryRow := registry.find? (fun r => r.code == t)

/-- R132 LENGTHOF. -/
def lengthOf (t : Byte) : Except ErrorKind Nat :=
  match rowOf t with
  | some r => .ok r.length
  | none => .error .invalidFrameType

/-- R134 ISVALIDTYPE. -/
def isValidType (t : Byte) : Bool := (rowOf t).isSome

/-- R133 WIRETYPEOF: any byte outside the registry is `Unknown`. -/
def wireTypeOf (v : Byte) : FrameType :=
  match rowOf v with
  | some r => r.type
  | none => .unknown

/-- R133 WIRECODE. -/
def wireCode (T : FrameType) : Byte :=
  match registry.find? (fun r => r.type == T) with
  | some r => r.code
  | none => Config.codeUnknown

end Sys2Proof.Machine
end

