-- ==== Sys2Proof/WellFormed.lean ====
section
/-! DEFINITION. Well-formed instructions: the bounds the spec puts on what can be presented to an operation.

R9 `PLEN_W`, decision D18: the payload of ENCODE and TRANSMIT and the byte sequence of VALIDATE and SEND have a length of
`PLEN_W` bits (R140, R151, R154, R155). XORSUM and XORVALID take any length (R120, R121); the length contract of DISPATCH
is no bound on what can be presented but a refusal of the operation (R204), so it stands in its meaning. Every operand of
a frame is one byte, and every byte value is legal (U13). -/

namespace Sys2Proof

/-- D18: the length fits in `PLEN_W` bits. -/
def fitsPlen (b : Bytes) : Bool := b.length < 2 ^ Config.plenW

/-- Whether an instruction can be presented at all. -/
def Instr.wellFormed : Instr → Bool
  | .encode _ p => fitsPlen p
  | .validate b => fitsPlen b
  | .transmit _ p => fitsPlen p
  | .send b => fitsPlen b
  | .setMousePos _ _ | .setMouseScroll _ | .setMousePress _ | .setMouseRelease _ | .setKeyboardPress _ _
  | .setKeyboardRelease _ _ | .getMouseData _ _ _ _ _ | .getKeyboardData _ _ _ _ _ _ _ _ => true
  | .xorsum _ | .xorvalid _ _ | .lengthof _ | .isvalidtype _ | .wiretypeof _ | .wirecode _ => true
  | .parse | .invoke | .dispatch _ _ | .drainPointer | .drainScroll | .peekButtons | .peekModifier | .peekKeys
  | .sessionStart | .sessionEnd => true

end Sys2Proof
end

