-- ==== Sys2Proof/Decode.lean ====
section
/-! DEFINITION. From bytes to instructions and back.

The block has two sources of instructions, and a decoder for each.
The WIRE: the bytes of the inbound buffer. `parseWith` is the algorithm of 43_parser.md (R183), `decodeFrame` turns its
frame into a constructor of `Instr`.
The REQUEST PORT: the bytes by which an agent presents an operation and its operands. The spec gives an operation a
5-bit label (R104) and no operand format; the format here is the model's own (DESIGN CHOICE, log entry 1):
byte 0 is `op_sel`, a one-byte operand follows it, a byte-sequence operand is all the bytes that remain.
`encode` gives the bytes of an instruction: of a frame from the layouts of R85 to R92, of an operation in the request format. -/

namespace Sys2Proof

open Sys2Proof.Machine

/-- Why bytes are no instruction. -/
inductive Reject where
  /-- the wire: the parser drops the bytes (R234) -/
  | noFrame (reason : DiscardReason)
  /-- the wire: a frame that fits no layout of R85 to R92; cannot happen while `LEN_CHECK` is on (R177) -/
  | noLayout (t : Byte)
  /-- the request port: no byte at all -/
  | noOperation
  /-- the request port: the first byte is no `op_sel` of R104 (20 to 255) -/
  | undefinedOpSel (v : Byte)
  /-- the request port: a one-byte operand is missing -/
  | missingOperand
  /-- the request port: bytes follow the last operand -/
  | extraBytes
  /-- the request port: a byte sequence longer than `PLEN_W` bits can count (D18) -/
  | operandTooLong
  deriving DecidableEq, Repr

/-! ## The wire -/

/-- R176, R177: steps 6 and 7 of the parse, on the body of a chunk of `n` bytes. An empty body has no type byte (decision
D10). A registered type is one that LENGTHOF knows (R134). -/
def parseBody (lenCheck : Bool) (n : Nat) (body : Bytes) : ParseResult :=
  match body with
  | [] => .noFrame .unknownType
  | t :: payload =>
    match lengthOf t with
    | .error _ => .noFrame .unknownType
    | .ok l => if lenCheck && n != l - 2 then .noFrame .lengthMismatch else .frame t payload

/-- R174, R175: steps 4 and 5, on the chunk of `n >= 1` bytes (so its byte `n - 1` exists). -/
def parseChunk (lenCheck : Bool) (n : Nat) (chunk : Bytes) : ParseResult :=
  if xorvalid (slice chunk 0 (n - 1)) (chunk.getD (n - 1) 0x00#8) then
    parseBody lenCheck n (slice chunk 0 (n - 1))
  else
    .noFrame .badChecksum

/-- R183: the whole algorithm on the content of the inbound buffer, for either value of `LEN_CHECK`. -/
def parseWith (lenCheck : Bool) (b : Bytes) : ParseResult :=
  match rxRead 1 (RxCursor.start b) with
  | some ([v], rx) =>
    if v != Config.start then .noFrame .noStart
    else
      match rxRead 1 rx with
      | some ([v], rx) =>
        if u8 v = 0 ∨ Config.maxDataLen < u8 v then .noFrame .badLength
        else
          match rxRead (u8 v) rx with
          | some (chunk, _) => parseChunk lenCheck (u8 v) chunk
          | none => .noFrame .short
      | _ => .noFrame .short
  | _ => .noFrame .empty

/-- R170, R184: PARSE, a function of the content of the buffer alone. -/
def parse (b : Bytes) : ParseResult := parseWith Config.lenCheck b

/-- R85 to R92: the constructor of a frame with type code `t` and payload `p`. -/
def frameInstr (t : Byte) (p : Bytes) : Option Instr :=
  match wireTypeOf t, p with
  | .setMousePos, [x, y] => some (.setMousePos x y)
  | .setMouseScroll, [v] => some (.setMouseScroll v)
  | .setMousePress, [b] => some (.setMousePress b)
  | .setMouseRelease, [b] => some (.setMouseRelease b)
  | .setKeyboardPress, [k0, k1] => some (.setKeyboardPress k0 k1)
  | .setKeyboardRelease, [k0, k1] => some (.setKeyboardRelease k0 k1)
  | .getMouseData, [b, x, y, w, h] => some (.getMouseData b x y w h)
  | .getKeyboardData, [m, p1, p2, p3, p4, p5, p6, p7] => some (.getKeyboardData m p1 p2 p3 p4 p5 p6 p7)
  | _, _ => none

/-- The frame at the front of a buffer, as an instruction. Bytes behind it are not looked at (R184). -/
def decodeFrame (b : Bytes) : Except Reject Instr :=
  match parse b with
  | .noFrame reason => .error (.noFrame reason)
  | .frame t p =>
    match frameInstr t p with
    | some i => .ok i
    | none => .error (.noLayout t)

/-- What an invocation on this buffer runs: the frame at its front, or, where there is none, the bare INVOKE, whose parse
then discards (R180, R182; log entry 9). -/
def fetchFrame (b : Bytes) : Instr :=
  match decodeFrame b with
  | .ok i => i
  | .error _ => .invoke

/-! ## The request port -/

/-- An operation without operands. -/
def noOperands (args : Bytes) (i : Instr) : Except Reject Instr :=
  match args with
  | [] => .ok i
  | _ :: _ => .error .extraBytes

/-- An operation with one one-byte operand. -/
def byteOperand (args : Bytes) (k : Byte → Instr) : Except Reject Instr :=
  match args with
  | [] => .error .missingOperand
  | [v] => .ok (k v)
  | _ :: _ :: _ => .error .extraBytes

/-- An operation with a one-byte operand and a byte sequence. -/
def byteAndSequence (args : Bytes) (k : Byte → Bytes → Except Reject Instr) : Except Reject Instr :=
  match args with
  | [] => .error .missingOperand
  | v :: rest => k v rest

/-- D18: a byte sequence of at most 255 bytes. -/
def bounded (b : Bytes) (i : Instr) : Except Reject Instr :=
  if fitsPlen b then .ok i else .error .operandTooLong

/-- The operation an agent presents. The labels are those of R104. -/
def decodeRequest (bytes : Bytes) : Except Reject Instr :=
  match bytes with
  | [] => .error .noOperation
  | op :: args =>
    match u8 op with
    | 0 => .ok (.xorsum args)
    | 1 => byteAndSequence args (fun e b => .ok (.xorvalid b e))
    | 2 => byteOperand args .lengthof
    | 3 => byteOperand args .isvalidtype
    | 4 => byteOperand args .wiretypeof
    | 5 => byteOperand args (fun v => .wirecode (wireTypeOf v))
    | 6 => byteAndSequence args (fun t p => bounded p (.encode t p))
    | 7 => bounded args (.validate args)
    | 8 => byteAndSequence args (fun t p => bounded p (.transmit t p))
    | 9 => noOperands args .parse
    | 10 => noOperands args .invoke
    | 11 => byteAndSequence args (fun t p => .ok (.dispatch t p))
    | 12 => noOperands args .drainPointer
    | 13 => noOperands args .drainScroll
    | 14 => noOperands args .peekButtons
    | 15 => noOperands args .peekModifier
    | 16 => noOperands args .peekKeys
    | 17 => noOperands args .sessionStart
    | 18 => noOperands args .sessionEnd
    | 19 => bounded args (.send args)
    | _ => .error (.undefinedOpSel op)

/-- Both decoders in one: a frame begins with the start marker, which is no `op_sel`. -/
def decode (bytes : Bytes) : Except Reject Instr :=
  if bytes.head? = some Config.start then decodeFrame bytes else decodeRequest bytes

/-! ## The encoder -/

/-- R104: the 5-bit label of an operation; `none` for a frame. -/
def Instr.opSel : Instr → Option (BitVec 5)
  | .xorsum _ => some 0
  | .xorvalid _ _ => some 1
  | .lengthof _ => some 2
  | .isvalidtype _ => some 3
  | .wiretypeof _ => some 4
  | .wirecode _ => some 5
  | .encode _ _ => some 6
  | .validate _ => some 7
  | .transmit _ _ => some 8
  | .parse => some 9
  | .invoke => some 10
  | .dispatch _ _ => some 11
  | .drainPointer => some 12
  | .drainScroll => some 13
  | .peekButtons => some 14
  | .peekModifier => some 15
  | .peekKeys => some 16
  | .sessionStart => some 17
  | .sessionEnd => some 18
  | .send _ => some 19
  | .setMousePos _ _ | .setMouseScroll _ | .setMousePress _ | .setMouseRelease _ | .setKeyboardPress _ _
  | .setKeyboardRelease _ _ | .getMouseData _ _ _ _ _ | .getKeyboardData _ _ _ _ _ _ _ _ => none

/-- The request bytes of an operation with label `op` and operand bytes `args`. -/
def request (op : BitVec 5) (args : Bytes) : Bytes := zext8 op :: args

/-- The bytes of an instruction: a frame as R85 to R92 lay it out, an operation as the request port takes it. -/
def encode : Instr → Bytes
  | .setMousePos x y => [0xAB, 0x04, 0xAA, x, y, 0xAA#8 ^^^ x ^^^ y]
  | .setMouseScroll v => [0xAB, 0x03, 0xAB, v, 0xAB#8 ^^^ v]
  | .setMousePress b => [0xAB, 0x03, 0xAC, b, 0xAC#8 ^^^ b]
  | .setMouseRelease b => [0xAB, 0x03, 0xAD, b, 0xAD#8 ^^^ b]
  | .setKeyboardPress k0 k1 => [0xAB, 0x04, 0xBB, k0, k1, 0xBB#8 ^^^ k0 ^^^ k1]
  | .setKeyboardRelease k0 k1 => [0xAB, 0x04, 0xBC, k0, k1, 0xBC#8 ^^^ k0 ^^^ k1]
  | .getMouseData b x y w h =>
    [0xAB, 0x07, 0xCA, b, x, y, w, h, 0xCA#8 ^^^ b ^^^ x ^^^ y ^^^ w ^^^ h]
  | .getKeyboardData m p1 p2 p3 p4 p5 p6 p7 =>
    [0xAB, 0x0A, 0xDA, m, p1, p2, p3, p4, p5, p6, p7,
      0xDA#8 ^^^ m ^^^ p1 ^^^ p2 ^^^ p3 ^^^ p4 ^^^ p5 ^^^ p6 ^^^ p7]
  | .xorsum b => request 0 b
  | .xorvalid b e => request 1 (e :: b)
  | .lengthof t => request 2 [t]
  | .isvalidtype t => request 3 [t]
  | .wiretypeof v => request 4 [v]
  | .wirecode T => request 5 [wireCode T]
  | .encode t p => request 6 (t :: p)
  | .validate b => request 7 b
  | .transmit t p => request 8 (t :: p)
  | .parse => request 9 []
  | .invoke => request 10 []
  | .dispatch t p => request 11 (t :: p)
  | .drainPointer => request 12 []
  | .drainScroll => request 13 []
  | .peekButtons => request 14 []
  | .peekModifier => request 15 []
  | .peekKeys => request 16 []
  | .sessionStart => request 17 []
  | .sessionEnd => request 18 []
  | .send b => request 19 b

/-! ## Words as spec/opcode_table.json gives them (log entry 12) -/

/-- The low `n` bytes of a number, the least significant first. -/
def bytesOf : Nat → Nat → Bytes
  | 0, _ => []
  | n + 1, w => BitVec.ofNat 8 w :: bytesOf n (w / 256)

/-- How many one-byte operands the operation with this label has; a table row gives them no bits, so they are zero. -/
def byteOperands (op : Nat) : Nat :=
  match op with
  | 1 | 2 | 3 | 4 | 5 | 6 | 8 | 11 => 1
  | _ => 0

/-- R105: a row of 40 bits or more is a frame row; the others are operation rows. -/
def isFrameRow (nbits : Nat) : Bool := 40 ≤ nbits

/-- The request bytes of an operation row's word: the bytes the table gives, then zero for each one-byte operand that lies
above them; a byte-sequence operand of no bits is empty. -/
def requestOfWord (nbits w : Nat) : Bytes :=
  let given := bytesOf ((nbits + 7) / 8) w
  given ++ List.replicate (byteOperands (w % 256) + 1 - given.length) 0x00#8

/-- The wire bytes of a frame row's word. R105: a frame is one big-endian number, byte 0 in its most significant place. The bytes
are taken as they stand, the checksum too: a word that fits a row's `match` and `mask` but has another last byte is no frame. -/
def frameOfWord (nbits w : Nat) : Bytes := (bytesOf (nbits / 8) w).reverse

/-- The instruction the decoder reads from a word of a table row (the host's probe). -/
def decodeTableWord (nbits w : Nat) : Option Instr :=
  let answer := if isFrameRow nbits then decodeFrame (frameOfWord nbits w) else decodeRequest (requestOfWord nbits w)
  match answer with
  | .ok i => some i
  | .error _ => none

end Sys2Proof
end

