-- ==== Sys2Proof/Machine/State.lean ====
section
/-! DEFINITION. The state of the machine (10_state.md), its reset value (R34), and why a step may stop.

INVENTORY.md lists every field with its rule. What is transient (R31: the cursor, the parser's and checksum's scratch, the frame
buffer) and what is ROM or configuration (R30, R35) is no field. -/

namespace Sys2Proof.Machine

/-- R20: the Shared Device State. -/
structure Regs where
  /-- R21: X accumulated since the last drain, signed -/
  dx : Acc
  /-- R21: Y accumulated since the last drain, signed -/
  dy : Acc
  /-- R22: wheel accumulated since the last drain, signed -/
  dw : Acc
  /-- R22: horizontal wheel accumulated since the last drain, signed -/
  dh : Acc
  /-- R23: the button mask, level state -/
  btn : Byte
  /-- R24: the modifier byte, level state -/
  mod : Byte
  /-- R25: `KEY[0]` -/
  key0 : Byte
  /-- R25: `KEY[1]` -/
  key1 : Byte
  /-- R25: `KEY[2]` -/
  key2 : Byte
  /-- R25: `KEY[3]` -/
  key3 : Byte
  /-- R25: `KEY[4]` -/
  key4 : Byte
  /-- R25: `KEY[5]` -/
  key5 : Byte
  deriving DecidableEq, Repr

/-- R34, R260: every register at its value after SESSION_START. -/
def Regs.zero : Regs :=
  ⟨accZero, accZero, accZero, accZero, 0x00#8, 0x00#8, 0x00#8, 0x00#8, 0x00#8, 0x00#8, 0x00#8, 0x00#8⟩

/-- R25, R210: the key slots in slot order. -/
def Regs.keys (r : Regs) : Bytes := [r.key0, r.key1, r.key2, r.key3, r.key4, r.key5]

/-- R33: the session flag `LIVE` and what exists only while it is 1 (log entry 7). -/
inductive Session where
  /-- `LIVE = 0`: the registers have no value (R33, R34) -/
  | off
  /-- `LIVE = 1` -/
  | on (regs : Regs)
  deriving DecidableEq, Repr

/-- One turn of the schedule (R63): which agent moves, and with what. -/
inductive Turn where
  /-- the transport: ARRIVE of one byte or more (R51: non-empty), raising a notification or not (R237: the transport chooses
  how arrivals are grouped under notifications) -/
  | arrive (b : Byte) (bs : Bytes) (raises : Bool)
  /-- the producer: one invocation, on what the buffer now holds (R182) -/
  | serve
  /-- an agent presents an operation; the bytes are those of the request port (Decode.lean) -/
  | request (bytes : Bytes)
  deriving DecidableEq, Repr

/-- R28, R230: what the step just taken delivers to its caller. -/
inductive Result where
  /-- no result -/
  | none
  /-- one byte -/
  | byte (v : Byte)
  /-- one bit -/
  | bit (v : Bool)
  /-- R132: a total length -/
  | length (n : Nat)
  /-- R133: a frame type -/
  | frameType (T : FrameType)
  /-- R140: a whole frame -/
  | bytes (f : Bytes)
  /-- R154, R155: done -/
  | ok
  /-- R230: an error -/
  | err (e : ErrorKind)
  /-- R206, R207: a pair of signed numbers -/
  | deltas (a b : Acc)
  /-- R210: six key slots -/
  | keys (k : Bytes)
  /-- R170, R182: the result of a parse; from INVOKE it is diagnostic only -/
  | parsed (r : ParseResult)
  deriving DecidableEq, Repr

/-- The machine. -/
structure State where
  /-- R33, R20: `LIVE` and the Shared Device State -/
  session : Session
  /-- R32, R51: the inbound buffer, the transport's -/
  rxbuf : Bytes
  /-- R32, R54: the frames handed to the transport, the earliest first -/
  txlog : List Bytes
  /-- R32, R237: notifications raised and not yet served (log entry 8) -/
  notifications : Nat
  /-- the model's own: the turns still to be taken, the next first (log entry 3) -/
  agenda : List Turn
  /-- the model's own: what the last step delivered; no operation reads it (log entry 4) -/
  result : Result
  deriving DecidableEq, Repr

/-- R34: the state after SESSION_START. The transport's part, which R34 leaves unspecified, is empty (log entry 2). -/
def State.reset : State where
  session := .on Regs.zero
  rxbuf := []
  txlog := []
  notifications := 0
  agenda := []
  result := .none

/-- R33: the flag `LIVE`. -/
def State.live (s : State) : Bool :=
  match s.session with
  | .off => false
  | .on _ => true

/-- Faults. R230, R236, R242: the block has no trap, and no anomaly may be turned into a fault, so there is none. -/
inductive Fault where
  deriving DecidableEq, Repr

/-- Why a step is refused: the cases where the spec says a model must refuse, and bytes that are no operation. -/
inductive Refusal where
  /-- exec raises it for an instruction without a meaning; safe. No arm does: every instruction has one. -/
  | notModelled (mnemonic : String)
  /-- R263, decision D14: raised by every operation that needs the state or the transport while `LIVE = 0`; safe -/
  | noSession
  /-- R260, decision D14: raised by SESSION_START while `LIVE = 1`; safe -/
  | sessionLive
  /-- R204, decision D22: raised by DISPATCH for an unregistered type or a payload of the wrong length; safe -/
  | dispatchContract
  /-- raised by step where the request port's bytes are no operation (log entry 1); safe -/
  | undecodable (why : Reject)
  deriving DecidableEq, Repr

/-- The outcome of a step or an operation. -/
abbrev Outcome := Host.Outcome State Fault Refusal

end Sys2Proof.Machine
end

