-- ==== Sys2Proof/Machine/Ops.lean ====
section
/-! DEFINITION. The shared operations: field updates, delivering a result, raising an error, the session guard, the transport's
primitives, and the end of an invocation. -/

namespace Sys2Proof.Machine

/-! ## One update per field -/

/-- The state with another session. -/
def State.withSession (s : State) (x : Session) : State := { s with session := x }

/-- The state with another inbound buffer. -/
def State.withRxbuf (s : State) (x : Bytes) : State := { s with rxbuf := x }

/-- The state with another record of frames handed out. -/
def State.withTxlog (s : State) (x : List Bytes) : State := { s with txlog := x }

/-- The state with another count of pending notifications. -/
def State.withNotifications (s : State) (x : Nat) : State := { s with notifications := x }

/-- The state with another agenda. -/
def State.withAgenda (s : State) (x : List Turn) : State := { s with agenda := x }

/-- R28: the state after a step that delivers this result. -/
def State.deliver (s : State) (x : Result) : State := { s with result := x }

/-! ## Ending an operation -/

/-- R13 `return v`: the operation ends with this result and changes nothing else. -/
def answer (v : Result) (s : State) : Outcome := .next (s.deliver v)

/-- R230 `raise E`: the operation ends with an error result and no state change. Nothing is saved, no mode changes, no handler
is entered; the block is ready for the next operation at once, so there is no return from it (R242). -/
def raise (e : ErrorKind) (s : State) : Outcome := answer (.err e) s

/-- R263: an operation with precondition `LIVE = 1`. -/
def inSession (s : State) (k : Regs → Outcome) : Outcome :=
  match s.session with
  | .off => .refused .noSession
  | .on r => k r

/-! ## The transport's primitives -/

/-- R53 `RxFlush()`: every byte of the buffer is gone. -/
def State.rxFlush (s : State) : State := s.withRxbuf []

/-- R54 `TxWrite(b)`: one whole frame, handed over as one unit. -/
def State.txWrite (s : State) (b : Bytes) : State := s.withTxlog (s.txlog ++ [b])

/-- R51 `ARRIVE(bs)`: the transport appends bytes and, where it chooses to, raises a notification (R237). -/
def State.arrive (s : State) (bs : Bytes) (raises : Bool) : State :=
  (s.withRxbuf (s.rxbuf ++ bs)).withNotifications (if raises then s.notifications + 1 else s.notifications)

/-- R237: the invocation a notification causes clears it. -/
def State.clearNotification (s : State) : State := s.withNotifications (s.notifications - 1)

/-- R180, R182: every invocation ends so, whatever its outcome: the buffer is flushed, the notification that caused it, if one
did, is cleared, and the parse's result stands on the diagnostic output. -/
def endInvocation (r : ParseResult) (s : State) : State :=
  (s.rxFlush.clearNotification).deliver (.parsed r)

end Sys2Proof.Machine
end

