-- ==== Sys2Proof/Machine/ChecksumUnit.lean ====
section
/-! DEFINITION. The meanings of XORSUM and XORVALID (40_checksum.md). They read no state and are defined at all times (R263). -/

namespace Sys2Proof.Machine

/-- R120 XORSUM. -/
def execXorsum (b : Bytes) (s : State) : Outcome := answer (.byte (xorsum b)) s

/-- R121 XORVALID. -/
def execXorvalid (b : Bytes) (expected : Byte) (s : State) : Outcome := answer (.bit (xorvalid b expected)) s

end Sys2Proof.Machine
end

