-- ==== Sys2Proof/Machine/FrameEncoder.lean ====
section
/-! DEFINITION. frame_encoder: ENCODE, the Outgoing Validator, SEND and TRANSMIT (42_encoder.md). -/

namespace Sys2Proof.Machine

/-- R140, R141: the frame of a type and a payload, or the first check that fails. -/
def encodeFrame (t : Byte) (p : Bytes) : Except ErrorKind Bytes :=
  match lengthOf t with
  | .error e => .error e
  | .ok l =>
    if p.length ≠ l - Config.overhead then .error .payloadLengthMismatch
    else
      let f := [Config.start, BitVec.ofNat 8 (l - 2), t] ++ p
      .ok (f ++ [xorsum (slice f 2 (l - 1))])

/-- R151 VALIDATE: length, start marker, type, checksum. After the first check the bytes the others read exist. -/
def validate (b : Bytes) : Bool :=
  if b.length < Config.minFrameLen ∨ Config.maxFrameLen < b.length then false
  else if b.getD 0 0x00#8 ≠ Config.start then false
  else if isValidType (b.getD 2 0x00#8) = false then false
  else xorvalid (slice b 2 (b.length - 1)) (b.getD (b.length - 1) 0x00#8)

/-- R154: the sender's step: nothing reaches the transport unless the validator accepts it. -/
def sendFrame (b : Bytes) (s : State) : Outcome :=
  if validate b then answer .ok (s.txWrite b) else raise .invalidFrame s

/-- R140 ENCODE. It is pure and defined at all times (R142, R263). -/
def execEncode (t : Byte) (p : Bytes) (s : State) : Outcome :=
  match encodeFrame t p with
  | .ok f => answer (.bytes f) s
  | .error e => raise e s

/-- R151 VALIDATE. -/
def execValidate (b : Bytes) (s : State) : Outcome := answer (.bit (validate b)) s

/-- R154 SEND. -/
def execSend (b : Bytes) (s : State) : Outcome := inSession s fun _ => sendFrame b s

/-- R155 TRANSMIT: ENCODE, then SEND of its result, in one step. -/
def execTransmit (t : Byte) (p : Bytes) (s : State) : Outcome :=
  inSession s fun _ =>
    match encodeFrame t p with
    | .ok f => sendFrame f s
    | .error e => raise e s

end Sys2Proof.Machine
end

