-- ==== Sys2Proof/Machine/FrameRegistry.lean ====
section
/-! DEFINITION. The meanings of LENGTHOF, ISVALIDTYPE, WIRETYPEOF and WIRECODE (41_registry.md). They read the ROM only and are
defined at all times (R263). -/

namespace Sys2Proof.Machine

/-- R132 LENGTHOF. -/
def execLengthof (t : Byte) (s : State) : Outcome :=
  match lengthOf t with
  | .ok l => answer (.length l) s
  | .error e => raise e s

/-- R134 ISVALIDTYPE. -/
def execIsvalidtype (t : Byte) (s : State) : Outcome := answer (.bit (isValidType t)) s

/-- R133 WIRETYPEOF. -/
def execWiretypeof (v : Byte) (s : State) : Outcome := answer (.frameType (wireTypeOf v)) s

/-- R133 WIRECODE. -/
def execWirecode (T : FrameType) (s : State) : Outcome := answer (.byte (wireCode T)) s

end Sys2Proof.Machine
end

