-- ==== Sys2Proof/Machine/SessionOwner.lean ====
section
/-! DEFINITION. SESSION_START and SESSION_END (70_reset_and_hazards.md). -/

namespace Sys2Proof.Machine

/-- R260 SESSION_START: every register zero, `LIVE` 1; refused while `LIVE = 1`. The transport's buffers stay (R261). -/
def execSessionStart (s : State) : Outcome :=
  match s.session with
  | .on _ => .refused .sessionLive
  | .off => answer .none (s.withSession (.on Regs.zero))

/-- R262 SESSION_END: `LIVE` 0, and the registers cease to have a value. -/
def execSessionEnd (s : State) : Outcome := inSession s fun _ => answer .none (s.withSession .off)

end Sys2Proof.Machine
end

