-- ==== Sys2Proof/Machine/FrameDispatcher.lean ====
section
/-! DEFINITION. frame_dispatcher: DISPATCH and the five consumer reads (44_dispatcher.md). -/

namespace Sys2Proof.Machine

/-- R201: the Shared Device State after a `GetMouseData` payload. -/
def applyMouse (r : Regs) (b x y w h : Byte) : Regs :=
  { r with
    btn := b
    dx := accAdd r.dx (sext32 x)
    dy := accAdd r.dy (sext32 y)
    dw := accAdd r.dw (sext32 w)
    dh := accAdd r.dh (sext32 h) }

/-- R202: the Shared Device State after a `GetKeyboardData` payload's modifier and six key codes. -/
def applyKeyboard (r : Regs) (m k0 k1 k2 k3 k4 k5 : Byte) : Regs :=
  { r with mod := m, key0 := k0, key1 := k1, key2 := k2, key3 := k3, key4 := k4, key5 := k5 }

/-- R200 to R204: the Shared Device State after DISPATCH, for any `KEY_BASE`; `none` where the operand contract is broken (R204:
an unregistered type, or a `GetMouseData` or `GetKeyboardData` payload of the wrong length). A Set frame is a no-op
whatever its payload: R203 reads nothing (log entry 6). The six key slots are the payload bytes from `KEY_BASE` on. -/
def dispatchWith (keyBase : Nat) (t : Byte) (p : Bytes) (r : Regs) : Option Regs :=
  match wireTypeOf t, p with
  | .getMouseData, [b, x, y, w, h] => some (applyMouse r b x y w h)
  | .getMouseData, _ => none
  | .getKeyboardData, [m, p1, p2, p3, p4, p5, p6, p7] =>
    match slice [m, p1, p2, p3, p4, p5, p6, p7] keyBase (keyBase + Config.keySlots) with
    | [k0, k1, k2, k3, k4, k5] => some (applyKeyboard r m k0 k1 k2 k3 k4 k5)
    | _ => none
  | .getKeyboardData, _ => none
  | .unknown, _ => none
  | .setMousePos, _ | .setMouseScroll, _ | .setMousePress, _ | .setMouseRelease, _ | .setKeyboardPress, _
  | .setKeyboardRelease, _ => some r

/-- R200: DISPATCH of a frame. -/
def dispatch (t : Byte) (p : Bytes) (r : Regs) : Option Regs := dispatchWith Config.keyBase t p r

/-- R200, R205: DISPATCH as a step of its own; everything the frame writes is written in this step. -/
def execDispatch (t : Byte) (p : Bytes) (s : State) : Outcome :=
  inSession s fun r =>
    match dispatch t p r with
    | some r' => answer .none (s.withSession (.on r'))
    | none => .refused .dispatchContract

/-- R178, R182: an invocation whose parse yields this frame: DISPATCH, then the end of the invocation. -/
def receive (t : Byte) (p : Bytes) (s : State) : Outcome :=
  inSession s fun r =>
    match dispatch t p r with
    | some r' => .next (endInvocation (.frame t p) (s.withSession (.on r')))
    | none => .refused .dispatchContract

/-- R206 DRAIN_POINTER: read and clear `DX` and `DY` in one step. -/
def execDrainPointer (s : State) : Outcome :=
  inSession s fun r => answer (.deltas r.dx r.dy) (s.withSession (.on { r with dx := accZero, dy := accZero }))

/-- R207 DRAIN_SCROLL: read and clear `DW` and `DH` in one step. -/
def execDrainScroll (s : State) : Outcome :=
  inSession s fun r => answer (.deltas r.dw r.dh) (s.withSession (.on { r with dw := accZero, dh := accZero }))

/-- R208 PEEK_BUTTONS. -/
def execPeekButtons (s : State) : Outcome := inSession s fun r => answer (.byte r.btn) s

/-- R209 PEEK_MODIFIER. -/
def execPeekModifier (s : State) : Outcome := inSession s fun r => answer (.byte r.mod) s

/-- R210 PEEK_KEYS. -/
def execPeekKeys (s : State) : Outcome := inSession s fun r => answer (.keys r.keys) s

end Sys2Proof.Machine
end

