-- ==== Sys2Proof/Machine/StreamParser.lean ====
section
/-! DEFINITION. stream_parser: PARSE and INVOKE (43_parser.md). The algorithm is `parseWith` of Decode.lean. -/

namespace Sys2Proof.Machine

/-- R170, R184 PARSE: a function of the buffer's content; it reads no session state and is defined at all times (R263). The final
flush belongs to the invocation (R182), so PARSE alone leaves the buffer (log entry 5). -/
def execParse (s : State) : Outcome := answer (.parsed (parse s.rxbuf)) s

/-- R182 INVOKE: parse, dispatch on a frame, flush (R180). `PARSE_MODE = single`: one frame at most (R181). -/
def execInvoke (s : State) : Outcome :=
  match Config.parseMode with
  | .single =>
    inSession s fun _ =>
      match parse s.rxbuf with
      | .frame t p => receive t p s
      | .noFrame reason => .next (endInvocation (.noFrame reason) s)

end Sys2Proof.Machine
end

