-- ==== Sys2Proof/Machine/WireFrames.lean ====
section
/-! DEFINITION. The meanings of the eight wire frames: the invocation that receives one (R178, R182) hands its type and payload
to DISPATCH. What ENCODE yields for a type (R143 to R150) is `encode` in Decode.lean and `encodeFrame`. -/

namespace Sys2Proof.Machine

/-- R143 SetMousePos, received: no Shared Device State is written (R203). -/
def execSetMousePos (x y : Byte) (s : State) : Outcome := receive (wireCode .setMousePos) [x, y] s

/-- R144 SetMouseScroll, received. -/
def execSetMouseScroll (v : Byte) (s : State) : Outcome := receive (wireCode .setMouseScroll) [v] s

/-- R145 SetMousePress, received. -/
def execSetMousePress (b : Byte) (s : State) : Outcome := receive (wireCode .setMousePress) [b] s

/-- R146 SetMouseRelease, received; the payload `RELEASE_ALL` is like any other to this block (R98). -/
def execSetMouseRelease (b : Byte) (s : State) : Outcome := receive (wireCode .setMouseRelease) [b] s

/-- R147 SetKeyboardPress, received. -/
def execSetKeyboardPress (k0 k1 : Byte) (s : State) : Outcome := receive (wireCode .setKeyboardPress) [k0, k1] s

/-- R148 SetKeyboardRelease, received. -/
def execSetKeyboardRelease (k0 k1 : Byte) (s : State) : Outcome := receive (wireCode .setKeyboardRelease) [k0, k1] s

/-- R201 GetMouseData, received. -/
def execGetMouseData (b x y w h : Byte) (s : State) : Outcome := receive (wireCode .getMouseData) [b, x, y, w, h] s

/-- R202 GetKeyboardData, received. -/
def execGetKeyboardData (m p1 p2 p3 p4 p5 p6 p7 : Byte) (s : State) : Outcome :=
  receive (wireCode .getKeyboardData) [m, p1, p2, p3, p4, p5, p6, p7] s

end Sys2Proof.Machine
end

