-- ==== Sys2Proof/Machine/Dispatch.lean ====
section
/-! DEFINITION. exec: one arm per constructor of `Instr`, each one call of its meaning. -/

namespace Sys2Proof.Machine

def exec (i : Instr) (s : State) : Host.Outcome State Fault Refusal :=
  match i with
  -- the wire frames
  | .setMousePos x y => Sys2Proof.Machine.execSetMousePos x y s
  | .setMouseScroll v => Sys2Proof.Machine.execSetMouseScroll v s
  | .setMousePress b => Sys2Proof.Machine.execSetMousePress b s
  | .setMouseRelease b => Sys2Proof.Machine.execSetMouseRelease b s
  | .setKeyboardPress k0 k1 => Sys2Proof.Machine.execSetKeyboardPress k0 k1 s
  | .setKeyboardRelease k0 k1 => Sys2Proof.Machine.execSetKeyboardRelease k0 k1 s
  | .getMouseData b x y w h => Sys2Proof.Machine.execGetMouseData b x y w h s
  | .getKeyboardData m p1 p2 p3 p4 p5 p6 p7 => Sys2Proof.Machine.execGetKeyboardData m p1 p2 p3 p4 p5 p6 p7 s
  -- checksum_unit
  | .xorsum b => Sys2Proof.Machine.execXorsum b s
  | .xorvalid b expected => Sys2Proof.Machine.execXorvalid b expected s
  -- registry
  | .lengthof t => Sys2Proof.Machine.execLengthof t s
  | .isvalidtype t => Sys2Proof.Machine.execIsvalidtype t s
  | .wiretypeof v => Sys2Proof.Machine.execWiretypeof v s
  | .wirecode T => Sys2Proof.Machine.execWirecode T s
  -- frame_encoder
  | .encode t p => Sys2Proof.Machine.execEncode t p s
  | .validate b => Sys2Proof.Machine.execValidate b s
  | .transmit t p => Sys2Proof.Machine.execTransmit t p s
  -- stream_parser
  | .parse => Sys2Proof.Machine.execParse s
  | .invoke => Sys2Proof.Machine.execInvoke s
  -- frame_dispatcher
  | .dispatch t p => Sys2Proof.Machine.execDispatch t p s
  | .drainPointer => Sys2Proof.Machine.execDrainPointer s
  | .drainScroll => Sys2Proof.Machine.execDrainScroll s
  | .peekButtons => Sys2Proof.Machine.execPeekButtons s
  | .peekModifier => Sys2Proof.Machine.execPeekModifier s
  | .peekKeys => Sys2Proof.Machine.execPeekKeys s
  -- session
  | .sessionStart => Sys2Proof.Machine.execSessionStart s
  | .sessionEnd => Sys2Proof.Machine.execSessionEnd s
  | .send b => Sys2Proof.Machine.execSend b s

end Sys2Proof.Machine
end

