-- ==== Sys2Proof/Machine/Flags.lean ====
section
/-! DEFINITION. The block has no flags, condition codes or sticky bits (R28) and no operation computes one. What an
implementation may put on its outputs instead are the code labels of R235 (decision D15); no rule depends on them. -/

namespace Sys2Proof.Machine

/-- R235: the code of an error kind on an `err` output. -/
def errCode : ErrorKind → Nat
  | .invalidFrameType => 1
  | .payloadLengthMismatch => 2
  | .invalidFrame => 3

/-- R235: the `err` output beside a result; 0 is no error. -/
def errOutput : Result → Nat
  | .err e => errCode e
  | _ => 0

/-- R235: the code of a discard reason. -/
def discardCode : DiscardReason → Nat
  | .empty => 1
  | .noStart => 2
  | .badLength => 3
  | .short => 4
  | .badChecksum => 5
  | .unknownType => 6
  | .lengthMismatch => 7

/-- R235, decision D16: the `diag` output of PARSE and INVOKE; 0 is a frame. -/
def diagOutput : ParseResult → Nat
  | .frame _ _ => 0
  | .noFrame reason => discardCode reason

end Sys2Proof.Machine
end

