-- ==== Sys2Proof/Machine/Step.lean ====
section
/-! DEFINITION. One step: the next turn of the agenda (R63), and the host's placing of an instruction.

The block runs no stored program (R34, R50). Its instructions come from the wire, where an invocation takes a frame from the
front of the inbound buffer, and from the request port, where an agent presents an operation. -/

namespace Sys2Proof.Machine

/-- R182, R178: one invocation. It runs the frame at the front of the buffer; where there is none it is the bare INVOKE. -/
def serve (s : State) : Outcome := exec (fetchFrame s.rxbuf) s

/-- The next turn. With no turn left, a pending notification is served (R237: each causes exactly one INVOKE), which only a
session can do (R263); otherwise the block is idle and holds its state (R249). -/
def step (s : State) : Host.Outcome State Fault Refusal :=
  match s.agenda with
  | [] => if s.live && 0 < s.notifications then serve s else answer .none s
  | .arrive b bs raises :: rest => answer .none ((s.withAgenda rest).arrive (b :: bs) raises)
  | .serve :: rest => serve (s.withAgenda rest)
  | .request bytes :: rest =>
    match decodeRequest bytes with
    | .ok i => exec i (s.withAgenda rest)
    | .error why => .refused (.undecodable why)

/-- The state in which the very next step runs the instruction of this table word (log entries 3 and 12): a frame is
put in the inbound buffer and an invocation scheduled, an operation is presented on the request port. -/
def State.withFetchWord (s : State) (nbits w : Nat) : State :=
  if isFrameRow nbits then (s.withRxbuf (frameOfWord nbits w)).withAgenda (.serve :: s.agenda)
  else s.withAgenda (.request (requestOfWord nbits w) :: s.agenda)

end Sys2Proof.Machine
end

