-- ==== Sys2Proof/Safety.lean ====
section
/-! DEFINITION. What counts as a safe run, and the words the statements about the machine use.

The second half says again, in the spec's own closed form, what some rules define: the registry as a list of codes and lengths
(R130), the parser as a function of the buffer (R184), the ledger of an accumulator (R65). Nothing in the machine uses these;
the statements compare the machine with them. -/

namespace Sys2Proof.Machine

/-! ## Safe runs -/

/-- R263, R260, R204: when an operation can be executed at all; elsewhere the spec says a model must refuse it. -/
def Applicable (i : Instr) (s : State) : Prop :=
  match i with
  | .xorsum _ | .xorvalid _ _ | .lengthof _ | .isvalidtype _ | .wiretypeof _ | .wirecode _ | .encode _ _ | .validate _
  | .parse => True
  | .sessionStart => s.live = false
  | .dispatch t p => s.live = true ∧ isValidType t = true ∧
      (wireTypeOf t = .getMouseData → p.length = 5) ∧ (wireTypeOf t = .getKeyboardData → p.length = 8)
  | .setMousePos _ _ | .setMouseScroll _ | .setMousePress _ | .setMouseRelease _ | .setKeyboardPress _ _
  | .setKeyboardRelease _ _ | .getMouseData _ _ _ _ _ | .getKeyboardData _ _ _ _ _ _ _ _ | .transmit _ _ | .invoke
  | .drainPointer | .drainScroll | .peekButtons | .peekModifier | .peekKeys | .sessionEnd | .send _ => s.live = true

/-- The instruction the next step runs, if it runs one. -/
def State.nextInstr (s : State) : Option Instr :=
  match s.agenda with
  | [] => if s.live && 0 < s.notifications then some (fetchFrame s.rxbuf) else none
  | .arrive _ _ _ :: _ => none
  | .serve :: _ => some (fetchFrame s.rxbuf)
  | .request bytes :: _ =>
    match decodeRequest bytes with
    | .ok i => some i
    | .error _ => none

/-- A state is safe when its next step is a next state: nothing the spec says to refuse is scheduled. -/
def Safe (s : State) : Prop := ∃ s', step s = .next s'

/-- R54, R154, R276: every frame ever handed to the transport is one the Outgoing Validator accepts. -/
def State.Inv (s : State) : Prop := ∀ f ∈ s.txlog, validate f = true

/-! ## What one operation does to the Shared Device State -/

/-- The frame that an operation hands to DISPATCH in a state, if it hands one. -/
def frameDispatched (i : Instr) (s : State) : Option (Byte × Bytes) :=
  match i with
  | .setMousePos x y => some (0xAA#8, [x, y])
  | .setMouseScroll v => some (0xAB#8, [v])
  | .setMousePress b => some (0xAC#8, [b])
  | .setMouseRelease b => some (0xAD#8, [b])
  | .setKeyboardPress k0 k1 => some (0xBB#8, [k0, k1])
  | .setKeyboardRelease k0 k1 => some (0xBC#8, [k0, k1])
  | .getMouseData b x y w h => some (0xCA#8, [b, x, y, w, h])
  | .getKeyboardData m p1 p2 p3 p4 p5 p6 p7 => some (0xDA#8, [m, p1, p2, p3, p4, p5, p6, p7])
  | .dispatch t p => some (t, p)
  | .invoke =>
    match parse s.rxbuf with
    | .frame t p => some (t, p)
    | .noFrame _ => none
  | .xorsum _ | .xorvalid _ _ | .lengthof _ | .isvalidtype _ | .wiretypeof _ | .wirecode _ | .encode _ _ | .validate _
  | .transmit _ _ | .parse | .drainPointer | .drainScroll | .peekButtons | .peekModifier | .peekKeys | .sessionStart
  | .sessionEnd | .send _ => none

/-- R20: the four drained accumulators. -/
inductive Accumulator where
  | dx
  | dy
  | dw
  | dh
  deriving DecidableEq, Repr

/-- The content of an accumulator. -/
def Regs.acc (r : Regs) : Accumulator → Acc
  | .dx => r.dx
  | .dy => r.dy
  | .dw => r.dw
  | .dh => r.dh

/-- R201: the delta a frame carries for an accumulator; 0 for a frame of another type. -/
def deltaOf (a : Accumulator) (t : Byte) (p : Bytes) : Acc :=
  match a, p with
  | .dx, [_, x, _, _, _] => if t = 0xCA#8 then x.signExtend 32 else 0#32
  | .dy, [_, _, y, _, _] => if t = 0xCA#8 then y.signExtend 32 else 0#32
  | .dw, [_, _, _, w, _] => if t = 0xCA#8 then w.signExtend 32 else 0#32
  | .dh, [_, _, _, _, h] => if t = 0xCA#8 then h.signExtend 32 else 0#32
  | _, _ => 0#32

/-- The delta an operation dispatches into an accumulator. -/
def dispatchedInto (a : Accumulator) (i : Instr) (s : State) : Acc :=
  match frameDispatched i s with
  | some (t, p) => deltaOf a t p
  | none => 0#32

/-- R206, R207: the value of an accumulator that an operation with this result returns to the consumer. -/
def returnedFrom (a : Accumulator) (i : Instr) (v : Result) : Acc :=
  match a, i, v with
  | .dx, .drainPointer, .deltas x _ => x
  | .dy, .drainPointer, .deltas _ y => y
  | .dw, .drainScroll, .deltas w _ => w
  | .dh, .drainScroll, .deltas _ h => h
  | _, _, _ => 0#32

/-- The ledger of an accumulator over `n` steps inside one session: the last state, the sum of all deltas dispatched into it and
the sum of all values it returned to drains, modulo 2^`ACC_W`. None where a step is refused or the session ends. -/
def ledger (a : Accumulator) : Nat → State → Option (State × Acc × Acc)
  | 0, s => some (s, 0#32, 0#32)
  | n + 1, s =>
    match step s with
    | .next s' =>
      if s'.live then
        match ledger a n s' with
        | some (last, dispatched, returned) =>
          match s.nextInstr with
          | some i => some (last, dispatchedInto a i s + dispatched, returnedFrom a i s'.result + returned)
          | none => some (last, dispatched, returned)
        | none => none
      else none
    | .fault _ => none
    | .refused _ => none

/-! ## The spec's closed forms -/

/-- R84, R130: the eight codes with their total lengths, as the spec's tables print them. -/
def specTable : List (Byte × Nat) :=
  [(0xAA#8, 6), (0xAB#8, 5), (0xAC#8, 5), (0xAD#8, 5), (0xBB#8, 6), (0xBC#8, 6), (0xCA#8, 9), (0xDA#8, 12)]

/-- R84: the registered codes. -/
def specCodes : List Byte := [0xAA#8, 0xAB#8, 0xAC#8, 0xAD#8, 0xBB#8, 0xBC#8, 0xCA#8, 0xDA#8]

/-- R133: the names with their codes, as the spec's table prints them. -/
def specNames : List (FrameType × Byte) :=
  [(.setMousePos, 0xAA#8), (.setMouseScroll, 0xAB#8), (.setMousePress, 0xAC#8), (.setMouseRelease, 0xAD#8),
   (.setKeyboardPress, 0xBB#8), (.setKeyboardRelease, 0xBC#8), (.getMouseData, 0xCA#8), (.getKeyboardData, 0xDA#8)]

/-- R120: the exclusive-or of a range. -/
def xorOf (b : Bytes) : Byte := b.foldl (fun acc v => acc ^^^ v) 0x00#8

/-- R80, R82: the frame of type code `t` with total length `l` and payload `p`. -/
def specFrame (t : Byte) (l : Nat) (p : Bytes) : Bytes :=
  [0xAB#8, BitVec.ofNat 8 (l - 2), t] ++ p ++ [xorOf (t :: p)]

/-- R151: the conjunction of the validator's four checks. -/
def specValid (b : Bytes) : Prop :=
  5 ≤ b.length ∧ b.length ≤ 12 ∧ b[0]? = some 0xAB#8 ∧ (∃ t ∈ specCodes, b[2]? = some t) ∧
    b.getLast? = some (xorOf (b.drop 2).dropLast)

/-- R184: PARSE as a function of the buffer, the first line whose condition holds. -/
def parseOfBuffer (b : Bytes) : ParseResult :=
  let n := (b.getD 1 0x00#8).toNat
  let t := b.getD 2 0x00#8
  let body := (b.drop 2).take (n - 1)
  if b.length = 0 then .noFrame .empty
  else if b.getD 0 0x00#8 ≠ 0xAB#8 then .noFrame .noStart
  else if b.length = 1 then .noFrame .short
  else if n = 0 ∨ 10 < n then .noFrame .badLength
  else if b.length < 2 + n then .noFrame .short
  else if xorOf body ≠ b.getD (1 + n) 0x00#8 then .noFrame .badChecksum
  else if n = 1 ∨ t ∉ specCodes then .noFrame .unknownType
  else if (t, n + 2) ∉ specTable then .noFrame .lengthMismatch
  else .frame t ((b.drop 3).take (n - 2))

end Sys2Proof.Machine
end

