-- ==== Sys2Proof/Certificates/Slice0/Obligations.lean ====
section
/-! DEFINITION. The statements for the provers. `specTable`, `specCodes`, `specNames`, `xorOf`, `specFrame`, `specValid` and
`parseOfBuffer` (Safety.lean) are the spec's own tables and closed forms; the machine does not use them. -/

open Sys2Proof Sys2Proof.Machine

/-! ## checksum_unit -/

/-- R120: XORSUM returns the exclusive-or of all bytes, left to right, 0 for an empty range; bit `k` of it is the parity of the
number of bytes whose bit `k` is 1. Nothing else changes. -/
def Obligations.XorsumIsTheXorReduction : Prop :=
  ∀ (b : Bytes) (s : State), ∃ c : Byte,
    exec (.xorsum b) s = .next { s with result := .byte c } ∧
    c = b.foldl (fun acc v => acc ^^^ v) 0x00#8 ∧
    ∀ k < 8, c.getLsbD k = (b.countP (fun v => v.getLsbD k) % 2 == 1)

/-- R121: XORVALID compares with XORSUM; it is true exactly when the checksum of `b ++ [expected]` is 0. -/
def Obligations.XorvalidComparesWithXorsum : Prop :=
  ∀ (b : Bytes) (e : Byte) (s : State),
    exec (.xorvalid b e) s = .next { s with result := .bit (xorOf b == e) } ∧
    ((xorOf b == e) = true ↔ xorOf (b ++ [e]) = 0x00#8)

/-- R122 (a) to (e): order does not matter; concatenation is exclusive-or; changing one byte changes the checksum; changing two
bytes by the same difference does not; appended zeros do not. -/
def Obligations.XorsumAlgebraicLaws : Prop :=
  (∀ a b : Bytes, a.Perm b → xorsum a = xorsum b) ∧
  (∀ a b : Bytes, xorsum (a ++ b) = xorsum a ^^^ xorsum b) ∧
  (∀ (b : Bytes) (i : Nat) (v : Byte), i < b.length → b[i]? ≠ some v → xorsum (b.set i v) ≠ xorsum b) ∧
  (∀ (a b c : Bytes) (u v d : Byte),
    xorsum (a ++ (u ^^^ d) :: b ++ (v ^^^ d) :: c) = xorsum (a ++ u :: b ++ v :: c)) ∧
  (∀ (b : Bytes) (n : Nat), xorsum (b ++ List.replicate n 0x00#8) = xorsum b)

/-! ## registry -/

/-- R130, R132: LENGTHOF answers the total length of each of the eight codes and `InvalidFrameType` for every other byte. -/
def Obligations.LengthofReadsTheRegistry : Prop :=
  ∀ (t : Byte) (s : State),
    (∀ l, (t, l) ∈ specTable → exec (.lengthof t) s = .next { s with result := .length l }) ∧
    (t ∉ specCodes → exec (.lengthof t) s = .next { s with result := .err .invalidFrameType })

/-- R134: ISVALIDTYPE is membership in the eight codes; it is true exactly when LENGTHOF answers a length. -/
def Obligations.IsvalidtypeTestsMembership : Prop :=
  ∀ (t : Byte) (s : State),
    exec (.isvalidtype t) s = .next { s with result := .bit (decide (t ∈ specCodes)) } ∧
    (t ∈ specCodes ↔ ∃ l, exec (.lengthof t) s = .next { s with result := .length l })

/-- R133: WIRECODE and WIRETYPEOF are the two tables; each undoes the other where the rule says so. -/
def Obligations.WireTypesAndCodesFollowTheTables : Prop :=
  ∀ s : State,
    (∀ T v, (T, v) ∈ specNames →
      exec (.wirecode T) s = .next { s with result := .byte v } ∧
      exec (.wiretypeof v) s = .next { s with result := .frameType T }) ∧
    exec (.wirecode .unknown) s = .next { s with result := .byte 0xFF#8 } ∧
    (∀ v, v ∉ specCodes → exec (.wiretypeof v) s = .next { s with result := .frameType .unknown }) ∧
    (∀ T, wireTypeOf (wireCode T) = T) ∧
    (∀ v, wireCode (wireTypeOf v) = v ↔ v ∈ specCodes ∨ v = 0xFF#8)

/-! ## frame_encoder -/

/-- R140, R141: ENCODE. The type is tested before the length; a frame is `AB, L - 2, type, payload, checksum`. Nothing but the
result changes, inside a session or outside one. -/
def Obligations.EncodeBuildsTheFrame : Prop :=
  ∀ (t : Byte) (p : Bytes) (s : State),
    (t ∉ specCodes → exec (.encode t p) s = .next { s with result := .err .invalidFrameType }) ∧
    (∀ l, (t, l) ∈ specTable → p.length ≠ l - 4 →
      exec (.encode t p) s = .next { s with result := .err .payloadLengthMismatch }) ∧
    (∀ l, (t, l) ∈ specTable → p.length = l - 4 →
      exec (.encode t p) s = .next { s with result := .bytes (specFrame t l p) } ∧ (specFrame t l p).length = l)

/-- R143 to R146: the four mouse Set types: the frame ENCODE builds, the error for a payload of another length, and that DISPATCH
of one is a no-op. -/
def Obligations.SetMouseFramesEncodeAndDispatch : Prop :=
  ∀ (s : State) (r : Regs), s.session = .on r →
    (∀ x y, exec (.encode 0xAA#8 [x, y]) s =
        .next { s with result := .bytes [0xAB#8, 0x04#8, 0xAA#8, x, y, 0xAA#8 ^^^ x ^^^ y] } ∧
      exec (.dispatch 0xAA#8 [x, y]) s = .next { s with result := .none }) ∧
    (∀ p, p.length ≠ 2 → exec (.encode 0xAA#8 p) s = .next { s with result := .err .payloadLengthMismatch }) ∧
    (∀ v, exec (.encode 0xAB#8 [v]) s =
        .next { s with result := .bytes [0xAB#8, 0x03#8, 0xAB#8, v, 0xAB#8 ^^^ v] } ∧
      exec (.dispatch 0xAB#8 [v]) s = .next { s with result := .none }) ∧
    (∀ p, p.length ≠ 1 → exec (.encode 0xAB#8 p) s = .next { s with result := .err .payloadLengthMismatch }) ∧
    (∀ b, exec (.encode 0xAC#8 [b]) s =
        .next { s with result := .bytes [0xAB#8, 0x03#8, 0xAC#8, b, 0xAC#8 ^^^ b] } ∧
      exec (.dispatch 0xAC#8 [b]) s = .next { s with result := .none }) ∧
    (∀ p, p.length ≠ 1 → exec (.encode 0xAC#8 p) s = .next { s with result := .err .payloadLengthMismatch }) ∧
    (∀ b, exec (.encode 0xAD#8 [b]) s =
        .next { s with result := .bytes [0xAB#8, 0x03#8, 0xAD#8, b, 0xAD#8 ^^^ b] } ∧
      exec (.dispatch 0xAD#8 [b]) s = .next { s with result := .none }) ∧
    (∀ p, p.length ≠ 1 → exec (.encode 0xAD#8 p) s = .next { s with result := .err .payloadLengthMismatch })

/-- R147, R148: the two keyboard Set types, in the same way. -/
def Obligations.SetKeyboardFramesEncodeAndDispatch : Prop :=
  ∀ (s : State) (r : Regs), s.session = .on r →
    (∀ k0 k1, exec (.encode 0xBB#8 [k0, k1]) s =
        .next { s with result := .bytes [0xAB#8, 0x04#8, 0xBB#8, k0, k1, 0xBB#8 ^^^ k0 ^^^ k1] } ∧
      exec (.dispatch 0xBB#8 [k0, k1]) s = .next { s with result := .none }) ∧
    (∀ p, p.length ≠ 2 → exec (.encode 0xBB#8 p) s = .next { s with result := .err .payloadLengthMismatch }) ∧
    (∀ k0 k1, exec (.encode 0xBC#8 [k0, k1]) s =
        .next { s with result := .bytes [0xAB#8, 0x04#8, 0xBC#8, k0, k1, 0xBC#8 ^^^ k0 ^^^ k1] } ∧
      exec (.dispatch 0xBC#8 [k0, k1]) s = .next { s with result := .none }) ∧
    (∀ p, p.length ≠ 2 → exec (.encode 0xBC#8 p) s = .next { s with result := .err .payloadLengthMismatch })

/-- The six Set frames as instructions: received in a session, one writes no register and nothing else but the end of its
invocation (that to run a wire frame is to receive it is log entry 9, the count of notifications log entry 8). -/
def Obligations.ReceivedSetFramesWriteNoRegister : Prop :=
  ∀ (s : State) (r : Regs), s.session = .on r →
    (∀ x y, exec (.setMousePos x y) s = .next { s with
      rxbuf := [], notifications := s.notifications - 1, result := .parsed (.frame 0xAA#8 [x, y]) }) ∧
    (∀ v, exec (.setMouseScroll v) s = .next { s with
      rxbuf := [], notifications := s.notifications - 1, result := .parsed (.frame 0xAB#8 [v]) }) ∧
    (∀ b, exec (.setMousePress b) s = .next { s with
      rxbuf := [], notifications := s.notifications - 1, result := .parsed (.frame 0xAC#8 [b]) }) ∧
    (∀ b, exec (.setMouseRelease b) s = .next { s with
      rxbuf := [], notifications := s.notifications - 1, result := .parsed (.frame 0xAD#8 [b]) }) ∧
    (∀ k0 k1, exec (.setKeyboardPress k0 k1) s = .next { s with
      rxbuf := [], notifications := s.notifications - 1, result := .parsed (.frame 0xBB#8 [k0, k1]) }) ∧
    (∀ k0 k1, exec (.setKeyboardRelease k0 k1) s = .next { s with
      rxbuf := [], notifications := s.notifications - 1, result := .parsed (.frame 0xBC#8 [k0, k1]) })

/-- R149, R150: the two Get types as operands of ENCODE. -/
def Obligations.GetFramesCanBeEncoded : Prop :=
  ∀ s : State,
    (∀ b x y w h, exec (.encode 0xCA#8 [b, x, y, w, h]) s = .next { s with
      result := .bytes [0xAB#8, 0x07#8, 0xCA#8, b, x, y, w, h, 0xCA#8 ^^^ b ^^^ x ^^^ y ^^^ w ^^^ h] }) ∧
    (∀ p, p.length ≠ 5 → exec (.encode 0xCA#8 p) s = .next { s with result := .err .payloadLengthMismatch }) ∧
    (∀ m p1 p2 p3 p4 p5 p6 p7, exec (.encode 0xDA#8 [m, p1, p2, p3, p4, p5, p6, p7]) s = .next { s with
      result := .bytes [0xAB#8, 0x0A#8, 0xDA#8, m, p1, p2, p3, p4, p5, p6, p7,
        0xDA#8 ^^^ m ^^^ p1 ^^^ p2 ^^^ p3 ^^^ p4 ^^^ p5 ^^^ p6 ^^^ p7] }) ∧
    (∀ p, p.length ≠ 8 → exec (.encode 0xDA#8 p) s = .next { s with result := .err .payloadLengthMismatch })

/-- R151: VALIDATE answers one bit, the conjunction of the four checks. -/
def Obligations.ValidateIsTheFourChecks : Prop :=
  ∀ (b : Bytes) (s : State), ∃ v : Bool,
    exec (.validate b) s = .next { s with result := .bit v } ∧ (v = true ↔ specValid b)

/-- R152 (a), (b): VALIDATE does not depend on the length byte, whatever the bytes, and does not compare the length with the
type's: with any length byte and any payload of 1 to 8 bytes, bytes with the marker, a registered type and the right checksum
pass. -/
def Obligations.ValidateIgnoresTheLengthByteAndTheTypesLength : Prop :=
  (∀ (b : Bytes) (n : Byte) (s : State), exec (.validate (b.set 1 n)) s = exec (.validate b) s) ∧
  (∀ (n t : Byte) (p : Bytes) (s : State), t ∈ specCodes → 1 ≤ p.length → p.length ≤ 8 →
    exec (.validate ([0xAB#8, n, t] ++ p ++ [xorOf (t :: p)])) s = .next { s with result := .bit true })

/-- R153: every frame that ENCODE returns passes VALIDATE. -/
def Obligations.EncodedFramesPassTheValidator : Prop :=
  ∀ (t : Byte) (p f : Bytes) (s s' : State),
    exec (.encode t p) s = .next s' → s'.result = .bytes f →
    ∀ u : State, exec (.validate f) u = .next { u with result := .bit true }

/-- R154: SEND hands over exactly the bytes the validator accepts, as one unit; otherwise nothing is written and the
error is `InvalidFrame`. -/
def Obligations.SendWritesOnlyWhatPasses : Prop :=
  ∀ (b : Bytes) (s : State) (r : Regs), s.session = .on r →
    (specValid b → exec (.send b) s = .next { s with txlog := s.txlog ++ [b], result := .ok }) ∧
    (¬ specValid b → exec (.send b) s = .next { s with result := .err .invalidFrame })

/-- R155: TRANSMIT writes the frame ENCODE builds, or fails with one of ENCODE's errors and writes nothing; `InvalidFrame` cannot
come of it. -/
def Obligations.TransmitRunsTheOutgoingFlow : Prop :=
  ∀ (t : Byte) (p : Bytes) (s : State) (r : Regs), s.session = .on r →
    (∀ l, (t, l) ∈ specTable → p.length = l - 4 →
      exec (.transmit t p) s = .next { s with txlog := s.txlog ++ [specFrame t l p], result := .ok }) ∧
    (∀ l, (t, l) ∈ specTable → p.length ≠ l - 4 →
      exec (.transmit t p) s = .next { s with result := .err .payloadLengthMismatch }) ∧
    (t ∉ specCodes → exec (.transmit t p) s = .next { s with result := .err .invalidFrameType })

/-! ## stream_parser -/

/-- R184: the seven steps with their cursor (R183) are the function of the buffer; PARSE delivers it, in a session or outside
one, and changes nothing else (that it leaves the buffer to the invocation's flush is log entry 5). -/
def Obligations.ParseIsTheBufferFunction : Prop :=
  ∀ s : State, exec .parse s = .next { s with result := .parsed (parseOfBuffer s.rxbuf) }

/-- R184: the parser reads at most the first `2 + N <= 12` bytes; what follows never influences the result. -/
def Obligations.ParserReadsAtMostTwelveBytes : Prop :=
  (∀ b c : Bytes, b.take 12 = c.take 12 → parse b = parse c) ∧
  (∀ (v n : Byte) (rest : Bytes), n.toNat ≤ rest.length → parse (v :: n :: rest) = parse (v :: n :: rest.take n.toNat))

/-- R182, R178, R180: INVOKE in a session. A frame is handed to DISPATCH; whatever the outcome the buffer is flushed; a parse
without a frame touches no register. The contract of DISPATCH always holds here (R204). -/
def Obligations.InvokeDispatchesAndFlushes : Prop :=
  ∀ (s : State) (r : Regs), s.session = .on r →
    (∀ t p, parseOfBuffer s.rxbuf = .frame t p → ∃ r', dispatch t p r = some r' ∧
      exec .invoke s = .next { s with
        session := .on r', rxbuf := [], notifications := s.notifications - 1, result := .parsed (.frame t p) }) ∧
    (∀ why, parseOfBuffer s.rxbuf = .noFrame why →
      exec .invoke s = .next { s with
        rxbuf := [], notifications := s.notifications - 1, result := .parsed (.noFrame why) })

/-- R236, R234, R73: in a session an invocation completes whatever the peer sent: no error is raised, no frame goes out, the
schedule stays, and the buffer is empty. -/
def Obligations.InboundAnomaliesNeverStopTheBlock : Prop :=
  ∀ (s : State) (r : Regs), s.session = .on r →
    ∃ s' res, exec .invoke s = .next s' ∧ s'.result = .parsed res ∧ s'.rxbuf = [] ∧ s'.live = true ∧
      s'.txlog = s.txlog ∧ s'.agenda = s.agenda ∧ (∀ why, res = .noFrame why → s'.session = s.session)

/-- R188 (a): round trip. What ENCODE returns, with any bytes behind it, parses back to the type and payload.
PARSE leaves the buffer to the invocation's flush (log entry 5). -/
def Obligations.EncodeThenParseReturnsTypeAndPayload : Prop :=
  ∀ (t : Byte) (p f x : Bytes) (s s' : State),
    exec (.encode t p) s = .next s' → s'.result = .bytes f →
    ∀ u : State, exec .parse { u with rxbuf := f ++ x } =
      .next { u with rxbuf := f ++ x, result := .parsed (.frame t p) }

/-- R188 (b): a frame with any one bit changed, in any byte, with any bytes behind it, yields no frame; and which reason it
gives. PARSE leaves the buffer to the invocation's flush (log entry 5). -/
def Obligations.SingleBitFlipsAreDiscarded : Prop :=
  ∀ (t : Byte) (l : Nat) (p x : Bytes) (i k : Nat) (u : State),
    (t, l) ∈ specTable → p.length = l - 4 → i < l → k < 8 →
    let f := specFrame t l p
    let flipped := f.set i (f.getD i 0x00#8 ^^^ (1#8 <<< k)) ++ x
    ∃ why, exec .parse { u with rxbuf := flipped } =
        .next { u with rxbuf := flipped, result := .parsed (.noFrame why) } ∧
      (i = 0 → why = .noStart) ∧
      (i = 1 → why = .badLength ∨ why = .short ∨ why = .badChecksum ∨ why = .lengthMismatch) ∧
      (2 ≤ i → why = .badChecksum)

/-- R188 (c), R176, R95: a well-formed frame of an unregistered type is dropped by the invocation: no register changes, no error. -/
def Obligations.UnknownTypesAreDroppedSilently : Prop :=
  ∀ (t : Byte) (p x : Bytes) (s : State) (r : Regs), t ∉ specCodes → p.length ≤ 8 → s.session = .on r →
    s.rxbuf = [0xAB#8, BitVec.ofNat 8 (p.length + 2), t] ++ p ++ [xorOf (t :: p)] ++ x →
    exec .invoke s = .next { s with
      rxbuf := [], notifications := s.notifications - 1, result := .parsed (.noFrame .unknownType) }

/-- R96, R188 (d), R170: a parse yields a frame only from at least 5 bytes, of a registered type, with the length byte of that
type, and the payload has the length of the type. -/
def Obligations.OnlyLegalPairsYieldFrames : Prop :=
  ∀ (b : Bytes) (t : Byte) (p : Bytes), parse b = .frame t p →
    5 ≤ b.length ∧ b[0]? = some 0xAB#8 ∧ (t, p.length + 4) ∈ specTable ∧ b[1]? = some (BitVec.ofNat 8 (p.length + 2))

/-! ## frame_dispatcher -/

/-- R201: DISPATCH of a GetMouseData payload: the buttons replaced, the four deltas sign-extended and added modulo 2^32, modifier
and keys kept. -/
def Obligations.GetMouseDataAccumulates : Prop :=
  ∀ (b x y w h : Byte) (s : State) (r : Regs), s.session = .on r →
    exec (.dispatch 0xCA#8 [b, x, y, w, h]) s = .next { s with
      session := .on { r with
        btn := b, dx := r.dx + x.signExtend 32, dy := r.dy + y.signExtend 32,
        dw := r.dw + w.signExtend 32, dh := r.dh + h.signExtend 32 }
      result := .none }

/-- R202: DISPATCH of a GetKeyboardData payload: modifier and all six slots replaced, `payload[7]` not used (the spec's decision
D6), pointer part kept. -/
def Obligations.GetKeyboardDataReplacesTheKeys : Prop :=
  ∀ (m p1 p2 p3 p4 p5 p6 p7 : Byte) (s : State) (r : Regs), s.session = .on r →
    exec (.dispatch 0xDA#8 [m, p1, p2, p3, p4, p5, p6, p7]) s = .next { s with
      session := .on { r with
        mod := m, key0 := p1, key1 := p2, key2 := p3, key3 := p4, key4 := p5, key5 := p6 }
      result := .none }

/-- The two Get frames as instructions: received in a session, the effect of DISPATCH (R201, R202) and the end of the invocation
(log entries 8 and 9). -/
def Obligations.ReceivedGetFramesUpdateTheState : Prop :=
  ∀ (s : State) (r : Regs), s.session = .on r →
    (∀ b x y w h, exec (.getMouseData b x y w h) s = .next { s with
      session := .on { r with
        btn := b, dx := r.dx + x.signExtend 32, dy := r.dy + y.signExtend 32,
        dw := r.dw + w.signExtend 32, dh := r.dh + h.signExtend 32 }
      rxbuf := [], notifications := s.notifications - 1, result := .parsed (.frame 0xCA#8 [b, x, y, w, h]) }) ∧
    (∀ m p1 p2 p3 p4 p5 p6 p7, exec (.getKeyboardData m p1 p2 p3 p4 p5 p6 p7) s = .next { s with
      session := .on { r with
        mod := m, key0 := p1, key1 := p2, key2 := p3, key3 := p4, key4 := p5, key5 := p6 }
      rxbuf := [], notifications := s.notifications - 1,
      result := .parsed (.frame 0xDA#8 [m, p1, p2, p3, p4, p5, p6, p7]) })

/-- R203: DISPATCH of a Set type reads and writes nothing, whatever the payload (that its length is not looked at is log entry 6). -/
def Obligations.DispatchOfSetTypesIsANoOp : Prop :=
  ∀ (t : Byte) (p : Bytes) (s : State) (r : Regs), s.session = .on r →
    t ∈ [0xAA#8, 0xAB#8, 0xAC#8, 0xAD#8, 0xBB#8, 0xBC#8] →
    exec (.dispatch t p) s = .next { s with result := .none }

/-- R204: DISPATCH refuses an unregistered type and a Get payload of the wrong length (the spec's decision D22). -/
def Obligations.DispatchRefusesABrokenContract : Prop :=
  ∀ (t : Byte) (p : Bytes) (s : State) (r : Regs), s.session = .on r →
    (t ∉ specCodes ∨ (t = 0xCA#8 ∧ p.length ≠ 5) ∨ (t = 0xDA#8 ∧ p.length ≠ 8)) →
    exec (.dispatch t p) s = .refused .dispatchContract

/-- R206: DRAIN_POINTER returns `DX` and `DY` and clears both in one step; nothing else changes. -/
def Obligations.DrainPointerReadsAndClears : Prop :=
  ∀ (s : State) (r : Regs), s.session = .on r →
    exec .drainPointer s = .next { s with
      session := .on { r with dx := 0#32, dy := 0#32 }, result := .deltas r.dx r.dy }

/-- R207: DRAIN_SCROLL, the same for `DW` and `DH`. -/
def Obligations.DrainScrollReadsAndClears : Prop :=
  ∀ (s : State) (r : Regs), s.session = .on r →
    exec .drainScroll s = .next { s with
      session := .on { r with dw := 0#32, dh := 0#32 }, result := .deltas r.dw r.dh }

/-- R208, R209, R210: the three peeks return the level state and change nothing. -/
def Obligations.PeeksReturnTheLevelState : Prop :=
  ∀ (s : State) (r : Regs), s.session = .on r →
    exec .peekButtons s = .next { s with result := .byte r.btn } ∧
    exec .peekModifier s = .next { s with result := .byte r.mod } ∧
    exec .peekKeys s = .next { s with
      result := .keys [r.key0, r.key1, r.key2, r.key3, r.key4, r.key5] }

/-- R26, R36, R211: the level state changes only by DISPATCH, and then to what the frame carries; the keyboard part not by a
mouse frame, nor the pointer part by a keyboard frame. Over all operations. -/
def Obligations.OnlyDispatchedFramesChangeTheLevelState : Prop :=
  ∀ (i : Instr) (s s' : State) (r r' : Regs), exec i s = .next s' → s.session = .on r → s'.session = .on r' →
    (∀ b x y w h, frameDispatched i s = some (0xCA#8, [b, x, y, w, h]) → r'.btn = b) ∧
    ((∀ p, frameDispatched i s ≠ some (0xCA#8, p)) → r'.btn = r.btn) ∧
    (∀ m p1 p2 p3 p4 p5 p6 p7, frameDispatched i s = some (0xDA#8, [m, p1, p2, p3, p4, p5, p6, p7]) →
      r'.mod = m ∧ r'.keys = [p1, p2, p3, p4, p5, p6]) ∧
    ((∀ p, frameDispatched i s ≠ some (0xDA#8, p)) → r'.mod = r.mod ∧ r'.keys = r.keys)

/-- R65, R211: drains lose nothing and count nothing twice. Over any number of steps inside one session, with any interleaving
of the agents, for each of the four accumulators: what it returned to drains plus its content is its first content plus
what was dispatched into it, modulo 2^32. -/
def Obligations.DrainsLoseNothing : Prop :=
  ∀ (a : Accumulator) (n : Nat) (s last : State) (r : Regs) (dispatched returned : Acc),
    s.session = .on r → ledger a n s = some (last, dispatched, returned) →
    ∃ r', last.session = .on r' ∧ returned + r'.acc a = r.acc a + dispatched

/-- R212: `acc_add` is addition wrapped into the signed range, and fewer than 2^24 deltas since a drain cannot wrap: the
accumulator is then their exact sum. -/
def Obligations.AccumulatorIsExactBelowTwoToThe24Frames : Prop :=
  (∀ (a : Acc) (d : Byte), (accAdd a (sext32 d)).toInt = (a.toInt + s8 d).bmod (2 ^ 32)) ∧
  (∀ ds : Bytes, ds.length < 2 ^ 24 →
    (ds.foldl (fun a d => accAdd a (sext32 d)) 0#32).toInt = (ds.map s8).sum)

/-- R213, R72: a DISPATCH and a drain presented together, for either drain. Drain first returns the old sums and leaves the deltas;
dispatch first returns the new sums and leaves zero. Both orders complete. -/
def Obligations.DispatchAndDrainInEitherOrder : Prop :=
  ∀ (b x y w h : Byte) (s : State) (r : Regs), s.session = .on r →
    (∃ s1 s2 r2, exec .drainPointer s = .next s1 ∧ s1.result = .deltas r.dx r.dy ∧
      exec (.dispatch 0xCA#8 [b, x, y, w, h]) s1 = .next s2 ∧ s2.session = .on r2 ∧
      r2.dx = x.signExtend 32 ∧ r2.dy = y.signExtend 32) ∧
    (∃ s1 s2 r2, exec (.dispatch 0xCA#8 [b, x, y, w, h]) s = .next s1 ∧ exec .drainPointer s1 = .next s2 ∧
      s2.result = .deltas (r.dx + x.signExtend 32) (r.dy + y.signExtend 32) ∧ s2.session = .on r2 ∧
      r2.dx = 0#32 ∧ r2.dy = 0#32) ∧
    (∃ s1 s2 r2, exec .drainScroll s = .next s1 ∧ s1.result = .deltas r.dw r.dh ∧
      exec (.dispatch 0xCA#8 [b, x, y, w, h]) s1 = .next s2 ∧ s2.session = .on r2 ∧
      r2.dw = w.signExtend 32 ∧ r2.dh = h.signExtend 32) ∧
    (∃ s1 s2 r2, exec (.dispatch 0xCA#8 [b, x, y, w, h]) s = .next s1 ∧ exec .drainScroll s1 = .next s2 ∧
      s2.result = .deltas (r.dw + w.signExtend 32) (r.dh + h.signExtend 32) ∧ s2.session = .on r2 ∧
      r2.dw = 0#32 ∧ r2.dh = 0#32)

/-! ## sessions and reset -/

/-- R260, R261: SESSION_START outside a session sets every register to zero and `LIVE` to 1 and leaves the transport's part;
inside one it is refused. -/
def Obligations.SessionStartZeroesEveryRegister : Prop :=
  (∀ s : State, s.session = .off → exec .sessionStart s = .next { s with
    session := .on ⟨0#32, 0#32, 0#32, 0#32, 0x00#8, 0x00#8, 0x00#8, 0x00#8, 0x00#8, 0x00#8, 0x00#8, 0x00#8⟩,
    result := .none }) ∧
  (∀ (s : State) (r : Regs), s.session = .on r → exec .sessionStart s = .refused .sessionLive)

/-- R262: SESSION_END: `LIVE` is 0 and no register has a value; what was not drained is lost, and a later SESSION_START begins
from zero. -/
def Obligations.SessionEndTakesTheStateAway : Prop :=
  ∀ (s : State) (r : Regs), s.session = .on r →
    exec .sessionEnd s = .next { s with session := .off, result := .none } ∧
    exec .sessionStart { s with session := .off, result := .none } = .next { s with
      session := .on ⟨0#32, 0#32, 0#32, 0#32, 0x00#8, 0x00#8, 0x00#8, 0x00#8, 0x00#8, 0x00#8, 0x00#8, 0x00#8⟩,
      result := .none }

/-- R263, decision D14: outside a session the operations that need the state or the transport are refused, and the pure ones and
PARSE run. That PARSE as a step changes the result only, and so leaves the buffer, is log entry 5.
`opSel` is `none` for a wire frame, which is no operation; the next statement is about those. -/
def Obligations.OutsideASessionOnlyPureOperationsRun : Prop :=
  ∀ (i : Instr) (s : State), s.session = .off → i.opSel ≠ none → i ≠ .sessionStart →
    ((i.role = .anyone ∨ (∃ t p, i = .encode t p) ∨ (∃ b, i = .validate b) ∨ i = .parse) →
      ∃ v, exec i s = .next { s with result := v }) ∧
    (¬ (i.role = .anyone ∨ (∃ t p, i = .encode t p) ∨ (∃ b, i = .validate b) ∨ i = .parse) →
      exec i s = .refused .noSession)

/-- Outside a session no wire frame is received either: to receive one is an INVOKE (log entry 9), which R263 refuses. -/
def Obligations.FramesOutsideASessionAreRefused : Prop :=
  ∀ (i : Instr) (s : State), s.session = .off → i.opSel = none → exec i s = .refused .noSession

/-- R34: the reset state is live with every register zero, and it is what SESSION_START makes of any state outside a session. -/
def Obligations.ResetIsTheStateAfterSessionStart : Prop :=
  State.reset.live = true ∧
  State.reset.session =
    .on ⟨0#32, 0#32, 0#32, 0#32, 0x00#8, 0x00#8, 0x00#8, 0x00#8, 0x00#8, 0x00#8, 0x00#8, 0x00#8⟩ ∧
  ∀ s : State, s.session = .off → exec .sessionStart s = .next { s with session := State.reset.session, result := .none }

/-! ## whole-machine rules -/

/-- R230 to R233, R241: an operation that raises has had no effect at all, and only the operations the rules name raise. -/
def Obligations.RaisedErrorsChangeNothing : Prop :=
  ∀ (i : Instr) (s s' : State) (e : ErrorKind), exec i s = .next s' → s'.result = .err e →
    s' = { s with result := .err e } ∧
    (e = .invalidFrameType → (∃ t, i = .lengthof t) ∨ ∃ t p, i = .encode t p ∨ i = .transmit t p) ∧
    (e = .payloadLengthMismatch → ∃ t p, i = .encode t p ∨ i = .transmit t p) ∧
    (e = .invalidFrame → ∃ b, i = .send b)

/-- R244, R26: roles. Issuers and the pure operations touch neither the session nor the inbound side; only issuers write to the
transport; a consumer changes nothing but accumulators, to zero; the owner leaves the inbound side, and only the owner changes
`LIVE`; no operation touches the schedule. That the role follows from the operation is log entry 10, the schedule as a field
log entry 3. -/
def Obligations.RolesBoundWhatOperationsWrite : Prop :=
  ∀ (i : Instr) (s s' : State), exec i s = .next s' →
    (i.role = .issuer ∨ i.role = .anyone →
      s'.session = s.session ∧ s'.rxbuf = s.rxbuf ∧ s'.notifications = s.notifications) ∧
    (i.role ≠ .issuer → s'.txlog = s.txlog) ∧
    (i.role = .consumer → ∃ r r', s.session = .on r ∧ s'.session = .on r' ∧ r'.btn = r.btn ∧ r'.mod = r.mod ∧
      r'.keys = r.keys ∧ (∀ a, r'.acc a = r.acc a ∨ r'.acc a = 0#32) ∧ s'.rxbuf = s.rxbuf ∧
      s'.notifications = s.notifications) ∧
    (i.role = .owner → s'.rxbuf = s.rxbuf ∧ s'.notifications = s.notifications) ∧
    (s'.live ≠ s.live → i.role = .owner) ∧
    s'.agenda = s.agenda

/-- R66: the pure operations read nothing but their operands: each has one result, whatever the state; so each commutes with
every step of every other operation. -/
def Obligations.PureOperationsCommuteWithEverything : Prop :=
  ∀ i : Instr, (i.role = .anyone ∨ (∃ t p, i = .encode t p) ∨ (∃ b, i = .validate b)) →
    ∃ v, (∀ s : State, exec i s = .next { s with result := v }) ∧
      ∀ (j : Instr) (s t : State), exec j s = .next t →
        exec j { s with result := v } = .next t ∧ exec i t = .next { t with result := v }

/-- R28, R248, R185: nothing reads a result: neither an operation nor a step depends on what the last one delivered (the field
is the model's own, log entry 4). -/
def Obligations.NothingReadsADeliveredResult : Prop :=
  (∀ (i : Instr) (s : State) (v : Result), exec i { s with result := v } = exec i s) ∧
  (∀ (s : State) (v : Result), step { s with result := v } = step s)

/-- R51, R70: no operation puts bytes into the inbound buffer: it stays, or an invocation has emptied it (R53, R180, R182). That
PARSE alone leaves it is log entry 5, that a frame run as an instruction empties it log entry 9. -/
def Obligations.NoOperationWritesTheInboundBuffer : Prop :=
  ∀ (i : Instr) (s s' : State), exec i s = .next s' →
    s'.rxbuf = (if i = .invoke ∨ i.opSel = none then [] else s.rxbuf)

/-- R54, R68, R158: an operation hands the transport at most one frame, behind all earlier ones, and only one that passes the
four checks; then its result is `ok`. -/
def Obligations.TransportGetsWholeValidFramesInOrder : Prop :=
  ∀ (i : Instr) (s s' : State), exec i s = .next s' →
    s'.txlog = s.txlog ∨ ∃ f, s'.txlog = s.txlog ++ [f] ∧ specValid f ∧ s'.result = .ok

/-- R276, R54: that every frame ever handed to the transport passes the validator is kept by every step from every state. -/
def Obligations.StepKeepsTheTransportRecordValid : Prop :=
  ∀ s s' : State, s.Inv → step s = .next s' → s'.Inv

/-- The invariant holds at reset. -/
def Obligations.ResetTransportRecordIsValid : Prop := State.reset.Inv

/-- R263, R260, R204, R73: an operation completes exactly in the states where the spec lets it be executed. -/
def Obligations.OperationsCompleteExactlyWhenApplicable : Prop :=
  ∀ (i : Instr) (s : State), (∃ s', exec i s = .next s') ↔ Applicable i s

/-! ## steps -/

/-- A step runs the operation that the presented bytes decode to; bytes that are no operation are refused by name (the request
port is the model's own, log entries 1 and 3). -/
def Obligations.StepRunsThePresentedOperation : Prop :=
  ∀ (s : State) (bytes : Bytes) (rest : List Turn), s.agenda = .request bytes :: rest →
    (∀ i, decodeRequest bytes = .ok i → step s = exec i { s with agenda := rest }) ∧
    (∀ why, decodeRequest bytes = .error why → step s = .refused (.undecodable why))

/-- A step of the producer runs the frame at the front of the inbound buffer as an instruction, or the bare INVOKE where there is
none (the model's own: log entry 9 and, for the turn, log entry 3). -/
def Obligations.StepRunsTheFrameInTheBuffer : Prop :=
  ∀ (s : State) (rest : List Turn), s.agenda = .serve :: rest →
    (∀ i, decodeFrame s.rxbuf = .ok i → step s = exec i { s with agenda := rest }) ∧
    (∀ why, decodeFrame s.rxbuf = .error why → step s = exec .invoke { s with agenda := rest })

/-- To fetch, decode and run the frame in the buffer (the model's own way of running one, log entry 9) is the same as the INVOKE of
R182, in every state. -/
def Obligations.RunningTheFetchedFrameIsInvoke : Prop :=
  ∀ s : State, exec (fetchFrame s.rxbuf) s = exec .invoke s

/-- R51, R249: the transport's ARRIVE appends its bytes and, where it raises a notification, counts it; with nothing scheduled
and nothing pending the block holds its state. -/
def Obligations.ArriveAppendsAndIdleHolds : Prop :=
  (∀ (s : State) (b : Byte) (bs : Bytes) (raises : Bool) (rest : List Turn), s.agenda = .arrive b bs raises :: rest →
    step s = .next { s with
      rxbuf := s.rxbuf ++ b :: bs, notifications := s.notifications + (if raises then 1 else 0), agenda := rest,
      result := .none }) ∧
  (∀ s : State, s.agenda = [] → (s.notifications = 0 ∨ s.live = false) → step s = .next { s with result := .none })

/-- R237: each pending notification causes exactly one invocation. With nothing else scheduled, a step of a session with one
pending is an INVOKE; and `n` steps serve `n` of them: the first runs on the buffer as it stands, after it the buffer is empty
and no later one changes a register (R182). The count of notifications is log entry 8, the agenda log entry 3. -/
def Obligations.PendingNotificationsAreServedOneByOne : Prop :=
  (∀ (s : State) (r : Regs), s.agenda = [] → s.session = .on r → 0 < s.notifications → step s = exec .invoke s) ∧
  (∀ (n : Nat) (s : State) (r : Regs), s.agenda = [] → s.session = .on r → n ≤ s.notifications →
    ∃ s' : State, Host.Core.run Sys2Proof.core n s = .next s' ∧ s'.notifications = s.notifications - n ∧ s'.live = true ∧
      s'.agenda = [] ∧ s'.txlog = s.txlog ∧
      (0 < n → s'.rxbuf = [] ∧ ∃ s1, exec .invoke s = .next s1 ∧ s'.session = s1.session))

/-! ## encodings -/

/-- Decoding what the encoder gives returns the instruction, for every well-formed instruction and every value of its operands;
a frame is found at the front of a buffer whatever follows it (R184). -/
def Obligations.DecodeOfEncodeIsTheInstruction : Prop :=
  (∀ i : Instr, i.wellFormed = true → decode (encode i) = .ok i) ∧
  (∀ (i : Instr) (x : Bytes), i.opSel = none → decodeFrame (encode i ++ x) = .ok i)

/-- The other direction: bytes that decode to an instruction are its encoding, for a frame followed by anything; only the type
operand of WIRECODE has several spellings, since every unregistered byte denotes `Unknown` (D3). -/
def Obligations.DecodedBytesAreTheEncoding : Prop :=
  (∀ (b : Bytes) (i : Instr), decodeFrame b = .ok i → ∃ x, b = encode i ++ x) ∧
  (∀ (b : Bytes) (i : Instr), decodeRequest b = .ok i → (∀ T, i ≠ .wirecode T) → encode i = b)

/-- What the decoder yields is well formed. -/
def Obligations.DecodedInstructionsAreWellFormed : Prop :=
  ∀ (b : Bytes) (i : Instr), decode b = .ok i → i.wellFormed = true

/-- R140 and R85 to R92 agree: what ENCODE returns for the type and payload of a frame is the frame's encoding. -/
def Obligations.EncodeOperationGivesTheFrameEncoding : Prop :=
  ∀ (i : Instr) (t : Byte) (p : Bytes) (s : State), i.opSel = none → frameDispatched i s = some (t, p) →
    exec (.encode t p) s = .next { s with result := .bytes (encode i) }

/-- A few words written out from the layouts of R85, R86, R91, R92 and the labels of R104. -/
def Obligations.WrittenOutWordsDecode : Prop :=
  decode [0xAB#8, 0x04#8, 0xAA#8, 0x05#8, 0xFB#8, 0x54#8] = .ok (.setMousePos 0x05#8 0xFB#8) ∧
  decode [0xAB#8, 0x03#8, 0xAB#8, 0x01#8, 0xAA#8] = .ok (.setMouseScroll 0x01#8) ∧
  decode [0xAB#8, 0x07#8, 0xCA#8, 0x00#8, 0x0A#8, 0xF6#8, 0x00#8, 0x00#8, 0x36#8] =
    .ok (.getMouseData 0x00#8 0x0A#8 0xF6#8 0x00#8 0x00#8) ∧
  decode [0xAB#8, 0x0A#8, 0xDA#8, 0x02#8, 0x04#8, 0x05#8, 0x06#8, 0x07#8, 0x08#8, 0x09#8, 0x0A#8, 0xD3#8] =
    .ok (.getKeyboardData 0x02#8 0x04#8 0x05#8 0x06#8 0x07#8 0x08#8 0x09#8 0x0A#8) ∧
  decode [0b00000110#8, 0xAA#8, 0x05#8, 0xFB#8] = .ok (.encode 0xAA#8 [0x05#8, 0xFB#8]) ∧
  decode [0b00001100#8] = .ok .drainPointer
end

