-- ==== Sys2Proof/Laws/Units.lean ====
section
/-! SUPPORT. What the pure units say: the checksum as a fold, the registry as the spec's table, the slices and the cursor read. -/

namespace Sys2Proof.Machine

/-! ## checksum_unit -/

theorem xorsum_eq_xorOf (b : Bytes) : xorsum b = xorOf b := rfl

@[simp] theorem xorOf_nil : xorOf [] = 0x00#8 := rfl

/-- The fold from any start is the start with the checksum of the range. -/
theorem foldl_xor (b : Bytes) (v : Byte) : b.foldl (fun acc u => acc ^^^ u) v = v ^^^ xorOf b := by
  induction b generalizing v with
  | nil => simp [xorOf]
  | cons u b ih =>
    have h : xorOf (u :: b) = u ^^^ xorOf b := by rw [xorOf, List.foldl_cons, ih]; simp
    rw [List.foldl_cons, ih, h, BitVec.xor_assoc]

@[simp] theorem xorOf_cons (v : Byte) (b : Bytes) : xorOf (v :: b) = v ^^^ xorOf b := by
  rw [xorOf, List.foldl_cons, foldl_xor]
  simp

theorem xorOf_append (a b : Bytes) : xorOf (a ++ b) = xorOf a ^^^ xorOf b := by
  rw [xorOf, List.foldl_append, foldl_xor]
  rfl

theorem xorvalid_iff (b : Bytes) (e : Byte) : xorvalid b e = true ↔ xorOf b = e := by
  simp [xorvalid, xorsum_eq_xorOf]

/-! ## the accumulators' parameters -/

@[simp] theorem config_accW_eq : Config.accW = 32 := rfl

@[simp] theorem config_accAdd_eq (a d : Acc) : Config.accAdd a d = a + d := rfl

@[simp] theorem accAdd_eq (a d : Acc) : accAdd a d = a + d := rfl

@[simp] theorem accZero_eq : accZero = 0#32 := rfl

@[simp] theorem sext32_eq (v : Byte) : sext32 v = v.signExtend 32 := rfl

/-! ## registry -/

/-- The eight codes, or none of them. -/
theorem code_cases (t : Byte) :
    t = 0xAA#8 ∨ t = 0xAB#8 ∨ t = 0xAC#8 ∨ t = 0xAD#8 ∨ t = 0xBB#8 ∨ t = 0xBC#8 ∨ t = 0xCA#8 ∨ t = 0xDA#8 ∨
      t ∉ specCodes := by
  by_cases h : t ∈ specCodes
  · simp only [specCodes, List.mem_cons, List.not_mem_nil, or_false] at h
    tauto
  · tauto

theorem rowOf_eq_none {t : Byte} (h : t ∉ specCodes) : rowOf t = none := by
  simp only [specCodes, List.mem_cons, List.not_mem_nil, or_false, not_or] at h
  obtain ⟨h1, h2, h3, h4, h5, h6, h7, h8⟩ := h
  simp [rowOf, registry, Ne.symm h1, Ne.symm h2, Ne.symm h3, Ne.symm h4, Ne.symm h5, Ne.symm h6, Ne.symm h7, Ne.symm h8]

theorem lengthOf_unregistered {t : Byte} (h : t ∉ specCodes) : lengthOf t = .error .invalidFrameType := by
  simp [lengthOf, rowOf_eq_none h]

theorem wireTypeOf_unregistered {t : Byte} (h : t ∉ specCodes) : wireTypeOf t = .unknown := by
  simp [wireTypeOf, rowOf_eq_none h]

theorem isValidType_iff (t : Byte) : isValidType t = true ↔ t ∈ specCodes := by
  rcases code_cases t with h | h | h | h | h | h | h | h | h
  case inr.inr.inr.inr.inr.inr.inr.inr => simp [isValidType, rowOf_eq_none h, h]
  all_goals subst h; decide

/-- The pairs of the spec's table, one by one. -/
theorem mem_specTable {t : Byte} {l : Nat} : (t, l) ∈ specTable ↔
    (t = 0xAA#8 ∧ l = 6) ∨ (t = 0xAB#8 ∧ l = 5) ∨ (t = 0xAC#8 ∧ l = 5) ∨ (t = 0xAD#8 ∧ l = 5) ∨
      (t = 0xBB#8 ∧ l = 6) ∨ (t = 0xBC#8 ∧ l = 6) ∨ (t = 0xCA#8 ∧ l = 9) ∨ (t = 0xDA#8 ∧ l = 12) := by
  simp [specTable]

theorem mem_codes_of_mem_table {t : Byte} {l : Nat} (h : (t, l) ∈ specTable) : t ∈ specCodes := by
  rw [mem_specTable] at h
  rcases h with ⟨h, -⟩ | ⟨h, -⟩ | ⟨h, -⟩ | ⟨h, -⟩ | ⟨h, -⟩ | ⟨h, -⟩ | ⟨h, -⟩ | ⟨h, -⟩ <;> subst h <;> decide

/-- A registered code has a length. -/
theorem exists_length {t : Byte} (h : t ∈ specCodes) : ∃ l, (t, l) ∈ specTable ∧ 5 ≤ l ∧ l ≤ 12 := by
  rcases code_cases t with e | e | e | e | e | e | e | e | e
  case inr.inr.inr.inr.inr.inr.inr.inr => exact absurd h e
  all_goals subst e; simp [specTable]

/-- LENGTHOF answers the length of the spec's table. -/
theorem lengthOf_of_mem {t : Byte} {l : Nat} (h : (t, l) ∈ specTable) : lengthOf t = .ok l := by
  rw [mem_specTable] at h
  rcases h with ⟨h, e⟩ | ⟨h, e⟩ | ⟨h, e⟩ | ⟨h, e⟩ | ⟨h, e⟩ | ⟨h, e⟩ | ⟨h, e⟩ | ⟨h, e⟩ <;> subst h <;> subst e <;> rfl

/-- Everything LENGTHOF can answer. -/
theorem lengthOf_cases (t : Byte) :
    (∃ l, (t, l) ∈ specTable ∧ 5 ≤ l ∧ l ≤ 12 ∧ lengthOf t = .ok l) ∨
      (t ∉ specCodes ∧ lengthOf t = .error .invalidFrameType) := by
  by_cases h : t ∈ specCodes
  · obtain ⟨l, hl, h5, h12⟩ := exists_length h
    exact .inl ⟨l, hl, h5, h12, lengthOf_of_mem hl⟩
  · exact .inr ⟨h, lengthOf_unregistered h⟩

/-- A type code has one length. -/
theorem table_length_unique {t : Byte} {l l' : Nat} (h : (t, l) ∈ specTable) (h' : (t, l') ∈ specTable) : l = l' := by
  simpa using (lengthOf_of_mem h).symm.trans (lengthOf_of_mem h')

/-- The lengths of the table. -/
theorem table_length_bounds {t : Byte} {l : Nat} (h : (t, l) ∈ specTable) : 5 ≤ l ∧ l ≤ 12 := by
  rw [mem_specTable] at h
  omega

/-! ## slices and the cursor -/

theorem slice_zero (b : Bytes) (j : Nat) : slice b 0 j = b.take j := rfl

/-- RxRead, where the buffer holds enough. -/
theorem rxRead_some {n : Nat} {rx : RxCursor} (h : rx.cur + n ≤ rx.buf.length) :
    rxRead n rx = some (slice rx.buf rx.cur (rx.cur + n), ⟨rx.buf, rx.cur + n⟩) := by
  simp [rxRead, h]

/-- RxRead, where it does not: `Short`. -/
theorem rxRead_none {n : Nat} {rx : RxCursor} (h : rx.buf.length < rx.cur + n) : rxRead n rx = none := by
  have : ¬ rx.cur + n ≤ rx.buf.length := by omega
  simp [rxRead, this]

end Sys2Proof.Machine
end

