-- ==== Sys2Proof/Laws/Parser.lean ====
section
/-! SUPPORT. The parse, buffer shape by buffer shape, and the decoders' inversions. -/

namespace Sys2Proof

open Sys2Proof.Machine

/-! ## the seven steps, by the shape of the buffer -/

theorem parseWith_nil (lc : Bool) : parseWith lc [] = .noFrame .empty := rfl

theorem parseWith_one (lc : Bool) (v : Byte) :
    parseWith lc [v] = if v = Config.start then .noFrame .short else .noFrame .noStart := by
  by_cases h : v = Config.start <;> simp [parseWith, rxRead, slice, RxCursor.start, h]

/-- A buffer of two bytes or more: every test in the order of R183. -/
theorem parseWith_cons (lc : Bool) (v n : Byte) (rest : Bytes) :
    parseWith lc (v :: n :: rest) =
      if v ≠ Config.start then .noFrame .noStart
      else if n.toNat = 0 ∨ 10 < n.toNat then .noFrame .badLength
      else if rest.length < n.toNat then .noFrame .short
      else parseChunk lc n.toNat (rest.take n.toNat) := by
  by_cases hv : v = Config.start
  · by_cases hn : n.toNat = 0 ∨ 10 < n.toNat
    · simp [parseWith, rxRead, slice, RxCursor.start, hv, u8, Config.maxDataLen, hn]
    · by_cases hr : rest.length < n.toNat
      · have h1 : ¬ 2 + n.toNat ≤ rest.length + 1 + 1 := by omega
        simp [parseWith, rxRead, slice, RxCursor.start, hv, u8, Config.maxDataLen, hn, hr, h1]
      · have h1 : 2 + n.toNat ≤ rest.length + 1 + 1 := by omega
        have h2 : 2 + n.toNat = n.toNat + 1 + 1 := by omega
        simp [parseWith, rxRead, slice, RxCursor.start, hv, u8, Config.maxDataLen, hn, hr, h1]
        simp [h2]
  · simp [parseWith, rxRead, slice, RxCursor.start, hv]

/-- A chunk written as body and checksum. -/
theorem parseChunk_append (lc : Bool) (body : Bytes) (c : Byte) :
    parseChunk lc (body.length + 1) (body ++ [c]) =
      if xorOf body = c then parseBody lc (body.length + 1) body else .noFrame .badChecksum := by
  simp [parseChunk, slice, xorvalid, xorsum_eq_xorOf]

/-- A chunk of `n >= 1` bytes is a body and a checksum. -/
theorem chunk_split {chunk : Bytes} {n : Nat} (hn : n ≠ 0) (h : chunk.length = n) :
    ∃ body c, chunk = body ++ [c] ∧ n = body.length + 1 := by
  have hne : chunk ≠ [] := by rintro rfl; simp at h; omega
  refine ⟨chunk.dropLast, chunk.getLast hne, (List.dropLast_append_getLast hne).symm, ?_⟩
  simp
  omega

/-- A body yields a frame exactly when its type is registered and `n` is the type's. -/
theorem parseBody_frame {n : Nat} {body : Bytes} {t : Byte} {p : Bytes} :
    parseBody true n body = .frame t p ↔ body = t :: p ∧ (t, n + 2) ∈ specTable := by
  cases body with
  | nil => simp [parseBody]
  | cons v q =>
    rcases lengthOf_cases v with ⟨l, hl, h5, -, e⟩ | ⟨h, e⟩
    · by_cases hn : n = l - 2
      · have : n + 2 = l := by omega
        simp only [parseBody, e, hn]
        constructor
        · intro h
          simp at h
          obtain ⟨rfl, rfl⟩ := h
          exact ⟨rfl, by rw [show l - 2 + 2 = l by omega]; exact hl⟩
        · rintro ⟨h, -⟩
          simp_all
      · simp only [parseBody, e]
        constructor
        · intro h
          simp [hn] at h
        · rintro ⟨h, h'⟩
          obtain ⟨rfl, rfl⟩ := by simpa using h
          exact absurd (table_length_unique hl h') (by omega)
    · simp only [parseBody, e]
      constructor
      · intro h; simp at h
      · rintro ⟨h', h''⟩
        obtain ⟨rfl, rfl⟩ := by simpa using h'
        exact absurd (mem_codes_of_mem_table h'') h

/-- Everything a frame out of PARSE says about the buffer. -/
theorem parse_frame {b : Bytes} {t : Byte} {p : Bytes} :
    parse b = .frame t p ↔
      (t, p.length + 4) ∈ specTable ∧ ∃ n x, n.toNat = p.length + 2 ∧ b = [0xAB#8, n] ++ t :: p ++ [xorOf (t :: p)] ++ x := by
  constructor
  · intro h
    match b, h with
    | [], h => simp [parse, parseWith_nil] at h
    | [v], h => rw [parse, parseWith_one] at h; split at h <;> simp at h
    | v :: n :: rest, h =>
      rw [parse, parseWith_cons] at h
      split at h
      · simp at h
      rename_i hv
      split at h
      · simp at h
      rename_i hn
      split at h
      · simp at h
      rename_i hr
      obtain ⟨body, c, hc, hlen⟩ := chunk_split (chunk := rest.take n.toNat) (n := n.toNat) (by omega) (by simp; omega)
      rw [hc, hlen, parseChunk_append] at h
      split at h
      · rename_i hx
        obtain ⟨rfl, hmem⟩ := parseBody_frame.1 h
        simp only [List.length_cons] at hlen hmem
        refine ⟨hmem, n, rest.drop n.toNat, hlen, ?_⟩
        have hv' : v = 0xAB#8 := not_not.1 hv
        have hrest := (List.take_append_drop n.toNat rest).symm
        rw [hc] at hrest
        rw [hv', hx]
        conv_lhs => rw [hrest]
        simp
      · simp at h
  · rintro ⟨hmem, n, x, hn, rfl⟩
    have hb := table_length_bounds hmem
    have htake : (t :: p ++ [xorOf (t :: p)] ++ x).take n.toNat = (t :: p) ++ [xorOf (t :: p)] := by
      have : n.toNat = ((t :: p) ++ [xorOf (t :: p)]).length := by simp [hn]
      rw [this, List.take_left]
    have hcons : [0xAB#8, n] ++ t :: p ++ [xorOf (t :: p)] ++ x =
        0xAB#8 :: n :: (t :: p ++ [xorOf (t :: p)] ++ x) := by simp
    have hlen : ¬ (t :: p ++ [xorOf (t :: p)] ++ x).length < n.toNat := by simp [hn]
    have hr : ¬ (n.toNat = 0 ∨ 10 < n.toNat) := by omega
    have hbl : n.toNat = (t :: p).length + 1 := by simp [hn]
    rw [hcons, parse, parseWith_cons, if_neg (by simp [Config.start]), if_neg hr, if_neg hlen, htake, hbl,
      parseChunk_append, if_pos rfl]
    exact parseBody_frame.2 ⟨rfl, by simpa using hmem⟩

/-! ## the frame decoder -/

/-- A frame out of PARSE always fits a layout. -/
theorem frameInstr_of_table {t : Byte} {p : Bytes} (h : (t, p.length + 4) ∈ specTable) : ∃ i, frameInstr t p = some i := by
  rw [mem_specTable] at h
  rcases h with ⟨rfl, h⟩ | ⟨rfl, h⟩ | ⟨rfl, h⟩ | ⟨rfl, h⟩ | ⟨rfl, h⟩ | ⟨rfl, h⟩ | ⟨rfl, h⟩ | ⟨rfl, h⟩ <;>
  · match p, h with
    | [], h => simp at h
    | [_], h => first | exact ⟨_, rfl⟩ | simp at h
    | [_, _], h => first | exact ⟨_, rfl⟩ | simp at h
    | [_, _, _], h => simp at h
    | [_, _, _, _], h => simp at h
    | [_, _, _, _, _], h => first | exact ⟨_, rfl⟩ | simp at h
    | [_, _, _, _, _, _], h => simp at h
    | [_, _, _, _, _, _, _], h => simp at h
    | [_, _, _, _, _, _, _, _], h => first | exact ⟨_, rfl⟩ | simp at h
    | _ :: _ :: _ :: _ :: _ :: _ :: _ :: _ :: _ :: _, h => simp at h

end Sys2Proof
end

