-- ==== Sys2Proof/Laws/State.lean ====
section
/-! SUPPORT. One lemma per field per update of State, so that no proof unfolds a record update, and what `live` reads. -/

namespace Sys2Proof.Machine

/-! ### withSession -/

@[simp] theorem State.withSession_session (s : State) (x : Session) : (s.withSession x).session = x := rfl
@[simp] theorem State.withSession_rxbuf (s : State) (x : Session) : (s.withSession x).rxbuf = s.rxbuf := rfl
@[simp] theorem State.withSession_txlog (s : State) (x : Session) : (s.withSession x).txlog = s.txlog := rfl
@[simp] theorem State.withSession_notifications (s : State) (x : Session) : (s.withSession x).notifications = s.notifications := rfl
@[simp] theorem State.withSession_agenda (s : State) (x : Session) : (s.withSession x).agenda = s.agenda := rfl
@[simp] theorem State.withSession_result (s : State) (x : Session) : (s.withSession x).result = s.result := rfl

/-! ### withRxbuf -/

@[simp] theorem State.withRxbuf_session (s : State) (x : Bytes) : (s.withRxbuf x).session = s.session := rfl
@[simp] theorem State.withRxbuf_rxbuf (s : State) (x : Bytes) : (s.withRxbuf x).rxbuf = x := rfl
@[simp] theorem State.withRxbuf_txlog (s : State) (x : Bytes) : (s.withRxbuf x).txlog = s.txlog := rfl
@[simp] theorem State.withRxbuf_notifications (s : State) (x : Bytes) : (s.withRxbuf x).notifications = s.notifications := rfl
@[simp] theorem State.withRxbuf_agenda (s : State) (x : Bytes) : (s.withRxbuf x).agenda = s.agenda := rfl
@[simp] theorem State.withRxbuf_result (s : State) (x : Bytes) : (s.withRxbuf x).result = s.result := rfl

/-! ### withTxlog -/

@[simp] theorem State.withTxlog_session (s : State) (x : List Bytes) : (s.withTxlog x).session = s.session := rfl
@[simp] theorem State.withTxlog_rxbuf (s : State) (x : List Bytes) : (s.withTxlog x).rxbuf = s.rxbuf := rfl
@[simp] theorem State.withTxlog_txlog (s : State) (x : List Bytes) : (s.withTxlog x).txlog = x := rfl
@[simp] theorem State.withTxlog_notifications (s : State) (x : List Bytes) : (s.withTxlog x).notifications = s.notifications := rfl
@[simp] theorem State.withTxlog_agenda (s : State) (x : List Bytes) : (s.withTxlog x).agenda = s.agenda := rfl
@[simp] theorem State.withTxlog_result (s : State) (x : List Bytes) : (s.withTxlog x).result = s.result := rfl

/-! ### withNotifications -/

@[simp] theorem State.withNotifications_session (s : State) (x : Nat) : (s.withNotifications x).session = s.session := rfl
@[simp] theorem State.withNotifications_rxbuf (s : State) (x : Nat) : (s.withNotifications x).rxbuf = s.rxbuf := rfl
@[simp] theorem State.withNotifications_txlog (s : State) (x : Nat) : (s.withNotifications x).txlog = s.txlog := rfl
@[simp] theorem State.withNotifications_notifications (s : State) (x : Nat) : (s.withNotifications x).notifications = x := rfl
@[simp] theorem State.withNotifications_agenda (s : State) (x : Nat) : (s.withNotifications x).agenda = s.agenda := rfl
@[simp] theorem State.withNotifications_result (s : State) (x : Nat) : (s.withNotifications x).result = s.result := rfl

/-! ### withAgenda -/

@[simp] theorem State.withAgenda_session (s : State) (x : List Turn) : (s.withAgenda x).session = s.session := rfl
@[simp] theorem State.withAgenda_rxbuf (s : State) (x : List Turn) : (s.withAgenda x).rxbuf = s.rxbuf := rfl
@[simp] theorem State.withAgenda_txlog (s : State) (x : List Turn) : (s.withAgenda x).txlog = s.txlog := rfl
@[simp] theorem State.withAgenda_notifications (s : State) (x : List Turn) : (s.withAgenda x).notifications = s.notifications := rfl
@[simp] theorem State.withAgenda_agenda (s : State) (x : List Turn) : (s.withAgenda x).agenda = x := rfl
@[simp] theorem State.withAgenda_result (s : State) (x : List Turn) : (s.withAgenda x).result = s.result := rfl

/-! ### deliver -/

@[simp] theorem State.deliver_session (s : State) (x : Result) : (s.deliver x).session = s.session := rfl
@[simp] theorem State.deliver_rxbuf (s : State) (x : Result) : (s.deliver x).rxbuf = s.rxbuf := rfl
@[simp] theorem State.deliver_txlog (s : State) (x : Result) : (s.deliver x).txlog = s.txlog := rfl
@[simp] theorem State.deliver_notifications (s : State) (x : Result) : (s.deliver x).notifications = s.notifications := rfl
@[simp] theorem State.deliver_agenda (s : State) (x : Result) : (s.deliver x).agenda = s.agenda := rfl
@[simp] theorem State.deliver_result (s : State) (x : Result) : (s.deliver x).result = x := rfl

/-! ### live -/

theorem State.live_of_on {s : State} {r : Regs} (h : s.session = .on r) : s.live = true := by simp [State.live, h]

theorem State.live_of_off {s : State} (h : s.session = .off) : s.live = false := by simp [State.live, h]

theorem State.live_iff (s : State) : s.live = true ↔ ∃ r, s.session = .on r := by
  unfold State.live
  split <;> simp_all

theorem State.not_live_iff (s : State) : s.live = false ↔ s.session = .off := by
  unfold State.live
  split <;> simp_all

@[simp] theorem State.deliver_live (s : State) (x : Result) : (s.deliver x).live = s.live := rfl
@[simp] theorem State.withRxbuf_live (s : State) (x : Bytes) : (s.withRxbuf x).live = s.live := rfl
@[simp] theorem State.withTxlog_live (s : State) (x : List Bytes) : (s.withTxlog x).live = s.live := rfl
@[simp] theorem State.withNotifications_live (s : State) (x : Nat) : (s.withNotifications x).live = s.live := rfl
@[simp] theorem State.withAgenda_live (s : State) (x : List Turn) : (s.withAgenda x).live = s.live := rfl

end Sys2Proof.Machine
end

