-- ==== Sys2Proof/Laws/Ops.lean ====
section
/-! SUPPORT. One lemma for each shared operation that says everything it can do: what it answers, and from `next s'` back to what
happened. -/

namespace Sys2Proof.Machine

/-! ## ending an operation -/

theorem answer_eq (v : Result) (s : State) : answer v s = .next { s with result := v } := rfl

theorem answer_next {v : Result} {s s' : State} : answer v s = .next s' ↔ s' = { s with result := v } := by
  rw [answer_eq]
  exact ⟨fun h => by injection h with h; exact h.symm, fun h => by rw [h]⟩

theorem raise_eq (e : ErrorKind) (s : State) : raise e s = .next { s with result := .err e } := rfl

/-- The guard lets the operation run in a session. -/
theorem inSession_on {s : State} {r : Regs} (h : s.session = .on r) (k : Regs → Outcome) : inSession s k = k r := by
  simp [inSession, h]

/-- The guard refuses outside one. -/
theorem inSession_off {s : State} (h : s.session = .off) (k : Regs → Outcome) : inSession s k = .refused .noSession := by
  simp [inSession, h]

/-- A guarded operation that ends in a next state ran in a session. -/
theorem inSession_next {s s' : State} {k : Regs → Outcome} (h : inSession s k = .next s') :
    ∃ r, s.session = .on r ∧ k r = .next s' := by
  cases hs : s.session with
  | off => simp [inSession, hs] at h
  | on r => exact ⟨r, rfl, by rwa [inSession_on hs] at h⟩

/-! ## the transport -/

theorem txWrite_eq (s : State) (b : Bytes) : s.txWrite b = { s with txlog := s.txlog ++ [b] } := rfl

theorem rxFlush_eq (s : State) : s.rxFlush = { s with rxbuf := [] } := rfl

theorem arrive_eq (s : State) (bs : Bytes) (raises : Bool) :
    s.arrive bs raises =
      { s with rxbuf := s.rxbuf ++ bs, notifications := s.notifications + (if raises then 1 else 0) } := by
  cases raises <;> rfl

/-- The end of an invocation, field by field. -/
theorem endInvocation_eq (r : ParseResult) (s : State) :
    endInvocation r s = { s with rxbuf := [], notifications := s.notifications - 1, result := .parsed r } := rfl

/-! ## frame_encoder -/

/-- What the encoder builds is the frame of the table's row. -/
theorem encodeFrame_of_mem {t : Byte} {l : Nat} {p : Bytes} (h : (t, l) ∈ specTable) :
    encodeFrame t p = if p.length = l - 4 then .ok (specFrame t l p) else .error .payloadLengthMismatch := by
  have hb := table_length_bounds h
  simp only [encodeFrame, lengthOf_of_mem h, Config.overhead]
  by_cases hp : p.length = l - 4
  · have h1 : l - 1 = p.length + 1 + 1 + 1 := by omega
    simp [hp, specFrame, Config.start, slice, xorsum_eq_xorOf, h1]
    rw [List.take_of_length_le (by omega)]
  · simp [hp]

theorem encodeFrame_unregistered {t : Byte} (h : t ∉ specCodes) (p : Bytes) :
    encodeFrame t p = .error .invalidFrameType := by
  simp [encodeFrame, lengthOf_unregistered h]

/-- Everything the encoder can answer. -/
theorem encodeFrame_cases (t : Byte) (p : Bytes) :
    (∃ l, (t, l) ∈ specTable ∧ p.length = l - 4 ∧ encodeFrame t p = .ok (specFrame t l p)) ∨
      (∃ l, (t, l) ∈ specTable ∧ p.length ≠ l - 4 ∧ encodeFrame t p = .error .payloadLengthMismatch) ∨
      (t ∉ specCodes ∧ encodeFrame t p = .error .invalidFrameType) := by
  rcases lengthOf_cases t with ⟨l, hl, -, -, -⟩ | ⟨h, -⟩
  · by_cases hp : p.length = l - 4
    · exact .inl ⟨l, hl, hp, by rw [encodeFrame_of_mem hl, if_pos hp]⟩
    · exact .inr (.inl ⟨l, hl, hp, by rw [encodeFrame_of_mem hl, if_neg hp]⟩)
  · exact .inr (.inr ⟨h, encodeFrame_unregistered h p⟩)

/-- The length of a frame. -/
theorem specFrame_length {t : Byte} {l : Nat} {p : Bytes} (h : (t, l) ∈ specTable) (hp : p.length = l - 4) :
    (specFrame t l p).length = l := by
  have := table_length_bounds h
  simp [specFrame]
  omega

/-- The four checks, on bytes written as head and checksum. -/
theorem validate_append (v n t c : Byte) (p : Bytes) :
    validate ([v, n, t] ++ p ++ [c]) = true ↔
      v = 0xAB#8 ∧ t ∈ specCodes ∧ 1 ≤ p.length ∧ p.length ≤ 8 ∧ xorOf (t :: p) = c := by
  have hlen : ([v, n, t] ++ p ++ [c]).length = p.length + 4 := by simp
  by_cases h1 : p.length + 4 < 5 ∨ 12 < p.length + 4
  · simp only [validate, Config.minFrameLen, Config.maxFrameLen, hlen, h1, if_true]
    constructor
    · simp
    · intro h; omega
  by_cases h2 : v = 0xAB#8
  · by_cases h3 : isValidType t = true
    · have h3' := (isValidType_iff t).1 h3
      have : validate ([v, n, t] ++ p ++ [c]) = xorvalid (t :: p) c := by
        unfold validate
        rw [if_neg (by rw [hlen]; exact h1)]
        simp [h2, Config.start, h3, slice]
      rw [this, xorvalid_iff]
      have : 1 ≤ p.length ∧ p.length ≤ 8 := by omega
      tauto
    · have h3' : t ∉ specCodes := fun h => h3 ((isValidType_iff t).2 h)
      simp [validate, Config.start, h2, h3, h3']
  · simp [validate, Config.start, h2]

/-- What the sender's step does. -/
theorem sendFrame_eq (b : Bytes) (s : State) :
    sendFrame b s =
      if validate b then .next { s with txlog := s.txlog ++ [b], result := .ok }
      else .next { s with result := .err .invalidFrame } := by
  unfold sendFrame
  split <;> rfl

/-! ## frame_dispatcher -/

/-- DISPATCH of the six Set types. -/
theorem dispatch_set {t : Byte} (h : t ∈ [0xAA#8, 0xAB#8, 0xAC#8, 0xAD#8, 0xBB#8, 0xBC#8]) (p : Bytes) (r : Regs) :
    dispatch t p r = some r := by
  simp only [List.mem_cons, List.not_mem_nil, or_false] at h
  rcases h with rfl | rfl | rfl | rfl | rfl | rfl <;> rfl

theorem dispatch_mouse (b x y w h : Byte) (r : Regs) :
    dispatch 0xCA#8 [b, x, y, w, h] r = some (applyMouse r b x y w h) := rfl

theorem dispatch_keyboard (m p1 p2 p3 p4 p5 p6 p7 : Byte) (r : Regs) :
    dispatch 0xDA#8 [m, p1, p2, p3, p4, p5, p6, p7] r = some (applyKeyboard r m p1 p2 p3 p4 p5 p6) := rfl

theorem dispatch_unregistered {t : Byte} (h : t ∉ specCodes) (p : Bytes) (r : Regs) : dispatch t p r = none := by
  simp [dispatch, dispatchWith, wireTypeOf_unregistered h]

theorem dispatch_mouse_length {p : Bytes} (h : p.length ≠ 5) (r : Regs) : dispatch 0xCA#8 p r = none := by
  have hw : wireTypeOf 0xCA#8 = .getMouseData := rfl
  unfold dispatch dispatchWith
  split <;> simp_all

theorem dispatch_keyboard_length {p : Bytes} (h : p.length ≠ 8) (r : Regs) : dispatch 0xDA#8 p r = none := by
  have hw : wireTypeOf 0xDA#8 = .getKeyboardData := rfl
  unfold dispatch dispatchWith
  split <;> simp_all

/-- Everything DISPATCH can do. -/
theorem dispatch_cases {t : Byte} {p : Bytes} {r r' : Regs} (h : dispatch t p r = some r') :
    (t ∈ [0xAA#8, 0xAB#8, 0xAC#8, 0xAD#8, 0xBB#8, 0xBC#8] ∧ r' = r) ∨
      (∃ b x y w h, t = 0xCA#8 ∧ p = [b, x, y, w, h] ∧ r' = applyMouse r b x y w h) ∨
      (∃ m p1 p2 p3 p4 p5 p6 p7, t = 0xDA#8 ∧ p = [m, p1, p2, p3, p4, p5, p6, p7] ∧
        r' = applyKeyboard r m p1 p2 p3 p4 p5 p6) := by
  rcases code_cases t with e | e | e | e | e | e | e | e | e
  case inr.inr.inr.inr.inr.inr.inr.inr => simp [dispatch_unregistered e] at h
  case inr.inr.inr.inr.inr.inr.inl =>
    subst e
    by_cases hp : p.length = 5
    · match p, hp with
      | [b, x, y, w, hh], _ => exact .inr (.inl ⟨b, x, y, w, hh, rfl, rfl, by simpa [dispatch_mouse] using h.symm⟩)
    · simp [dispatch_mouse_length hp] at h
  case inr.inr.inr.inr.inr.inr.inr.inl =>
    subst e
    by_cases hp : p.length = 8
    · match p, hp with
      | [m, p1, p2, p3, p4, p5, p6, p7], _ =>
        exact .inr (.inr ⟨m, p1, p2, p3, p4, p5, p6, p7, rfl, rfl, by simpa [dispatch_keyboard] using h.symm⟩)
    · simp [dispatch_keyboard_length hp] at h
  all_goals
    subst e
    rw [dispatch_set (by simp)] at h
    exact .inl ⟨by simp, by simpa using h.symm⟩

/-- The contract of DISPATCH holds of every frame of a length its type has. -/
theorem dispatch_of_table {t : Byte} {p : Bytes} (h : (t, p.length + 4) ∈ specTable) (r : Regs) :
    ∃ r', dispatch t p r = some r' := by
  rw [mem_specTable] at h
  rcases h with ⟨e, h⟩ | ⟨e, h⟩ | ⟨e, h⟩ | ⟨e, h⟩ | ⟨e, h⟩ | ⟨e, h⟩ | ⟨e, h⟩ | ⟨e, h⟩ <;> subst e
  case inr.inr.inr.inr.inr.inr.inl =>
    match p, h with
    | [b, x, y, w, hh], _ => exact ⟨_, dispatch_mouse b x y w hh r⟩
  case inr.inr.inr.inr.inr.inr.inr =>
    match p, h with
    | [m, p1, p2, p3, p4, p5, p6, p7], _ => exact ⟨_, dispatch_keyboard m p1 p2 p3 p4 p5 p6 p7 r⟩
  all_goals exact ⟨r, dispatch_set (by simp) p r⟩

/-- An invocation that receives a frame, from a next state back to what happened. -/
theorem receive_next {t : Byte} {p : Bytes} {s s' : State} (h : receive t p s = .next s') :
    ∃ r r', s.session = .on r ∧ dispatch t p r = some r' ∧
      s' = { s with session := .on r', rxbuf := [], notifications := s.notifications - 1,
                    result := .parsed (.frame t p) } := by
  obtain ⟨r, hr, h⟩ := inSession_next h
  cases hd : dispatch t p r with
  | none => simp [hd] at h
  | some r' =>
    simp only [hd] at h
    injection h with h
    exact ⟨r, r', hr, hd, h.symm⟩

/-- An invocation that receives a frame, forward. -/
theorem receive_of_dispatch {t : Byte} {p : Bytes} {s : State} {r r' : Regs} (hr : s.session = .on r)
    (hd : dispatch t p r = some r') :
    receive t p s = .next { s with
      session := .on r', rxbuf := [], notifications := s.notifications - 1, result := .parsed (.frame t p) } := by
  simp [receive, inSession_on hr, hd]
  rfl

/-- INVOKE in a session: the parse decides. -/
theorem execInvoke_on {s : State} {r : Regs} (hr : s.session = .on r) :
    execInvoke s =
      match parse s.rxbuf with
      | .frame t p => receive t p s
      | .noFrame why => .next { s with
          rxbuf := [], notifications := s.notifications - 1, result := .parsed (.noFrame why) } := by
  simp only [execInvoke, inSession_on hr]
  rfl

end Sys2Proof.Machine
end

