-- ==== Sys2Proof/Laws/Exec.lean ====
section
/-! SUPPORT. Everything an operation and a step can do, said once: from `next s'` back to which effect it was. Proofs about all
instructions take `exec_effect` and its cases instead of unfolding the meanings. -/

namespace Sys2Proof.Machine

/-- The instructions that only deliver a result, in a session or outside one (R263). -/
def Instr.delivers (i : Instr) : Prop :=
  i.role = .anyone ∨ (∃ t p, i = .encode t p) ∨ (∃ b, i = .validate b) ∨ i = .parse

/-- What an operation that ends in a next state has done. -/
inductive Effect (s : State) : Instr → State → Prop where
  /-- a result, and nothing else -/
  | delivered {i : Instr} (v : Result) (h : Instr.delivers i) : Effect s i { s with result := v }
  /-- DISPATCH as a step of its own -/
  | dispatched {t : Byte} {p : Bytes} {r r' : Regs} (hs : s.session = .on r) (hd : dispatch t p r = some r') :
      Effect s (.dispatch t p) { s with session := .on r', result := .none }
  /-- an invocation with a frame: INVOKE, or one of the eight frames -/
  | received {i : Instr} {t : Byte} {p : Bytes} {r r' : Regs} (hi : i = .invoke ∨ i.opSel = none)
      (hf : frameDispatched i s = some (t, p)) (hs : s.session = .on r) (hd : dispatch t p r = some r') :
      Effect s i { s with
        session := .on r', rxbuf := [], notifications := s.notifications - 1, result := .parsed (.frame t p) }
  /-- an invocation without a frame -/
  | discarded {r : Regs} {why : DiscardReason} (hs : s.session = .on r) (hp : parse s.rxbuf = .noFrame why) :
      Effect s .invoke { s with
        rxbuf := [], notifications := s.notifications - 1, result := .parsed (.noFrame why) }
  | drainedPointer {r : Regs} (hs : s.session = .on r) :
      Effect s .drainPointer { s with session := .on { r with dx := 0#32, dy := 0#32 }, result := .deltas r.dx r.dy }
  | drainedScroll {r : Regs} (hs : s.session = .on r) :
      Effect s .drainScroll { s with session := .on { r with dw := 0#32, dh := 0#32 }, result := .deltas r.dw r.dh }
  | peekedButtons {r : Regs} (hs : s.session = .on r) : Effect s .peekButtons { s with result := .byte r.btn }
  | peekedModifier {r : Regs} (hs : s.session = .on r) : Effect s .peekModifier { s with result := .byte r.mod }
  | peekedKeys {r : Regs} (hs : s.session = .on r) : Effect s .peekKeys { s with result := .keys r.keys }
  | started (hs : s.session = .off) : Effect s .sessionStart { s with session := .on Regs.zero, result := .none }
  | ended {r : Regs} (hs : s.session = .on r) : Effect s .sessionEnd { s with session := .off, result := .none }
  | sent {b : Bytes} {r : Regs} (hs : s.session = .on r) (hv : validate b = true) :
      Effect s (.send b) { s with txlog := s.txlog ++ [b], result := .ok }
  | sendRejected {b : Bytes} {r : Regs} (hs : s.session = .on r) (hv : validate b = false) :
      Effect s (.send b) { s with result := .err .invalidFrame }
  | transmitted {t : Byte} {l : Nat} {p : Bytes} {r : Regs} (hs : s.session = .on r) (hl : (t, l) ∈ specTable)
      (hp : p.length = l - 4) : Effect s (.transmit t p) { s with txlog := s.txlog ++ [specFrame t l p], result := .ok }
  | transmitFailed {t : Byte} {p : Bytes} {r : Regs} (e : ErrorKind) (hs : s.session = .on r)
      (he : encodeFrame t p = .error e) : Effect s (.transmit t p) { s with result := .err e }

/-- A frame of the table passes the validator. -/
theorem validate_specFrame {t : Byte} {l : Nat} {p : Bytes} (h : (t, l) ∈ specTable) (hp : p.length = l - 4) :
    validate (specFrame t l p) = true := by
  have := table_length_bounds h
  exact (validate_append _ _ _ _ _).2 ⟨rfl, mem_codes_of_mem_table h, by omega, by omega, rfl⟩

/-- A received frame, for one of the eight constructors. -/
theorem receive_effect {i : Instr} {t : Byte} {p : Bytes} {s s' : State} (h : receive t p s = .next s')
    (hi : i.opSel = none) (hf : frameDispatched i s = some (t, p)) : Effect s i s' := by
  obtain ⟨r, r', hr, hd, rfl⟩ := receive_next h
  exact .received (.inr hi) hf hr hd

/-- Everything an operation can do. -/
theorem exec_effect {i : Instr} {s s' : State} (h : exec i s = .next s') : Effect s i s' := by
  cases i with
  | setMousePos x y => exact receive_effect (t := 0xAA#8) (p := [x, y]) h rfl rfl
  | setMouseScroll v => exact receive_effect (t := 0xAB#8) (p := [v]) h rfl rfl
  | setMousePress b => exact receive_effect (t := 0xAC#8) (p := [b]) h rfl rfl
  | setMouseRelease b => exact receive_effect (t := 0xAD#8) (p := [b]) h rfl rfl
  | setKeyboardPress k0 k1 => exact receive_effect (t := 0xBB#8) (p := [k0, k1]) h rfl rfl
  | setKeyboardRelease k0 k1 => exact receive_effect (t := 0xBC#8) (p := [k0, k1]) h rfl rfl
  | getMouseData b x y w hh => exact receive_effect (t := 0xCA#8) (p := [b, x, y, w, hh]) h rfl rfl
  | getKeyboardData m p1 p2 p3 p4 p5 p6 p7 =>
    exact receive_effect (t := 0xDA#8) (p := [m, p1, p2, p3, p4, p5, p6, p7]) h rfl rfl
  | xorsum b => rw [answer_next.1 h]; exact .delivered _ (.inl rfl)
  | xorvalid b e => rw [answer_next.1 h]; exact .delivered _ (.inl rfl)
  | lengthof t =>
    rcases lengthOf_cases t with ⟨l, -, -, -, e⟩ | ⟨-, e⟩ <;> simp only [exec, execLengthof, e, raise, answer_next] at h <;>
      rw [h] <;> exact .delivered _ (.inl rfl)
  | isvalidtype t => rw [answer_next.1 h]; exact .delivered _ (.inl rfl)
  | wiretypeof v => rw [answer_next.1 h]; exact .delivered _ (.inl rfl)
  | wirecode T => rw [answer_next.1 h]; exact .delivered _ (.inl rfl)
  | encode t p =>
    rcases encodeFrame_cases t p with ⟨l, -, -, e⟩ | ⟨l, -, -, e⟩ | ⟨-, e⟩ <;>
      simp only [exec, execEncode, e, raise, answer_next] at h <;> rw [h] <;>
      exact .delivered _ (.inr (.inl ⟨t, p, rfl⟩))
  | validate b => rw [answer_next.1 h]; exact .delivered _ (.inr (.inr (.inl ⟨b, rfl⟩)))
  | parse => rw [answer_next.1 h]; exact .delivered _ (.inr (.inr (.inr rfl)))
  | transmit t p =>
    obtain ⟨r, hr, h⟩ := inSession_next h
    rcases encodeFrame_cases t p with ⟨l, hl, hp, e⟩ | ⟨l, -, -, e⟩ | ⟨-, e⟩
    · simp only [e, sendFrame_eq, validate_specFrame hl hp, if_true] at h
      injection h with h
      rw [← h]
      exact .transmitted hr hl hp
    · simp only [e, raise, answer_next] at h
      rw [h]
      exact .transmitFailed _ hr e
    · simp only [e, raise, answer_next] at h
      rw [h]
      exact .transmitFailed _ hr e
  | invoke =>
    obtain ⟨r, hr, -⟩ := inSession_next (show inSession s _ = _ from h)
    rw [show exec .invoke s = execInvoke s from rfl, execInvoke_on hr] at h
    cases hp : parse s.rxbuf with
    | frame t p =>
      rw [hp] at h
      obtain ⟨r1, r', hr1, hd, rfl⟩ := receive_next h
      exact .received (.inl rfl) (by simp [frameDispatched, hp]) hr1 hd
    | noFrame why =>
      rw [hp] at h
      injection h with h
      rw [← h]
      exact .discarded hr hp
  | dispatch t p =>
    obtain ⟨r, hr, h⟩ := inSession_next h
    cases hd : dispatch t p r with
    | none => simp [hd] at h
    | some r' =>
      simp only [hd] at h
      rw [answer_next.1 h]
      exact .dispatched hr hd
  | drainPointer =>
    obtain ⟨r, hr, h⟩ := inSession_next h
    rw [answer_next.1 h]
    exact .drainedPointer hr
  | drainScroll =>
    obtain ⟨r, hr, h⟩ := inSession_next h
    rw [answer_next.1 h]
    exact .drainedScroll hr
  | peekButtons =>
    obtain ⟨r, hr, h⟩ := inSession_next h
    rw [answer_next.1 h]
    exact .peekedButtons hr
  | peekModifier =>
    obtain ⟨r, hr, h⟩ := inSession_next h
    rw [answer_next.1 h]
    exact .peekedModifier hr
  | peekKeys =>
    obtain ⟨r, hr, h⟩ := inSession_next h
    rw [answer_next.1 h]
    exact .peekedKeys hr
  | sessionStart =>
    cases hs : s.session with
    | on r => simp [exec, execSessionStart, hs] at h
    | off =>
      simp only [exec, execSessionStart, hs, answer_next] at h
      rw [h]
      exact .started hs
  | sessionEnd =>
    obtain ⟨r, hr, h⟩ := inSession_next h
    rw [answer_next.1 h]
    exact .ended hr
  | send b =>
    obtain ⟨r, hr, h⟩ := inSession_next h
    rw [sendFrame_eq] at h
    split at h
    · rename_i hv
      injection h with h
      rw [← h]
      exact .sent hr hv
    · rename_i hv
      injection h with h
      rw [← h]
      exact .sendRejected hr (by simpa using hv)

/-- What a step that ends in a next state has done: it ran an instruction in this state with another agenda, or it was a turn of
the transport, or the block was idle. -/
inductive StepEffect (s : State) : State → Prop where
  | ran {i : Instr} {s' : State} (rest : List Turn) (hi : s.nextInstr = some i)
      (he : exec i (s.withAgenda rest) = .next s') : StepEffect s s'
  | arrived (bs : Bytes) (raises : Bool) (rest : List Turn) (hi : s.nextInstr = none) :
      StepEffect s (((s.withAgenda rest).arrive bs raises).deliver .none)
  | idle (hi : s.nextInstr = none) : StepEffect s (s.deliver .none)

/-- Everything a step can do. -/
theorem step_effect {s s' : State} (h : step s = .next s') : StepEffect s s' := by
  unfold step at h
  split at h
  · rename_i hag
    split at h
    · rename_i hc
      refine .ran (i := fetchFrame s.rxbuf) s.agenda (by simp [State.nextInstr, hag, hc]) ?_
      exact h
    · rename_i hc
      injection h with h
      rw [← h]
      exact .idle (by simp [State.nextInstr, hag, hc])
  · rename_i hag
    injection h with h
    rw [← h]
    exact .arrived _ _ _ (by simp [State.nextInstr, hag])
  · rename_i rest hag
    exact .ran (i := fetchFrame s.rxbuf) rest (by simp [State.nextInstr, hag]) h
  · rename_i bytes rest hag
    split at h
    · rename_i i hd
      exact .ran rest (by simp [State.nextInstr, hag, hd]) h
    · simp at h

end Sys2Proof.Machine
end

