-- ==== Sys2Proof/Laws/PerInstr.lean ====
section
/-! SUPPORT. Statements made for each instruction: family `RowHead`, that an instruction's encoding begins with the bits its row
of spec/opcode_table.json fixes: the start marker, `N` and type code of a frame row (R105), the `op_sel` label of an operation
row (R104). -/

namespace Sys2Proof.Laws.RowHead

open Sys2Proof

/-- The bytes the table fixes for a row. -/
def fixedBytes : Instr → Bytes
  | .setMousePos _ _ => [0xAB#8, 0x04#8, 0xAA#8]
  | .setMouseScroll _ => [0xAB#8, 0x03#8, 0xAB#8]
  | .setMousePress _ => [0xAB#8, 0x03#8, 0xAC#8]
  | .setMouseRelease _ => [0xAB#8, 0x03#8, 0xAD#8]
  | .setKeyboardPress _ _ => [0xAB#8, 0x04#8, 0xBB#8]
  | .setKeyboardRelease _ _ => [0xAB#8, 0x04#8, 0xBC#8]
  | .getMouseData _ _ _ _ _ => [0xAB#8, 0x07#8, 0xCA#8]
  | .getKeyboardData _ _ _ _ _ _ _ _ => [0xAB#8, 0x0A#8, 0xDA#8]
  | .xorsum _ => [0b00000000#8]
  | .xorvalid _ _ => [0b00000001#8]
  | .lengthof _ => [0b00000010#8]
  | .isvalidtype _ => [0b00000011#8]
  | .wiretypeof _ => [0b00000100#8]
  | .wirecode _ => [0b00000101#8]
  | .encode _ _ => [0b00000110#8]
  | .validate _ => [0b00000111#8]
  | .transmit _ _ => [0b00001000#8]
  | .parse => [0b00001001#8]
  | .invoke => [0b00001010#8]
  | .dispatch _ _ => [0b00001011#8]
  | .drainPointer => [0b00001100#8]
  | .drainScroll => [0b00001101#8]
  | .peekButtons => [0b00001110#8]
  | .peekModifier => [0b00001111#8]
  | .peekKeys => [0b00010000#8]
  | .sessionStart => [0b00010001#8]
  | .sessionEnd => [0b00010010#8]
  | .send _ => [0b00010011#8]

/-- The encoding begins with the row's fixed bytes. -/
def Statement (i : Instr) : Prop := (encode i).take (fixedBytes i).length = fixedBytes i

theorem setMousePos (x : Byte) (y : Byte) : Statement (.setMousePos x y) := rfl
theorem setMouseScroll (v : Byte) : Statement (.setMouseScroll v) := rfl
theorem setMousePress (b : Byte) : Statement (.setMousePress b) := rfl
theorem setMouseRelease (b : Byte) : Statement (.setMouseRelease b) := rfl
theorem setKeyboardPress (k0 : Byte) (k1 : Byte) : Statement (.setKeyboardPress k0 k1) := rfl
theorem setKeyboardRelease (k0 : Byte) (k1 : Byte) : Statement (.setKeyboardRelease k0 k1) := rfl
theorem getMouseData (b : Byte) (x : Byte) (y : Byte) (w : Byte) (h : Byte) : Statement (.getMouseData b x y w h) := rfl
theorem getKeyboardData (m : Byte) (p1 : Byte) (p2 : Byte) (p3 : Byte) (p4 : Byte) (p5 : Byte) (p6 : Byte) (p7 : Byte) : Statement (.getKeyboardData m p1 p2 p3 p4 p5 p6 p7) := rfl
theorem xorsum (b : Bytes) : Statement (.xorsum b) := rfl
theorem xorvalid (b : Bytes) (e : Byte) : Statement (.xorvalid b e) := rfl
theorem lengthof (t : Byte) : Statement (.lengthof t) := rfl
theorem isvalidtype (t : Byte) : Statement (.isvalidtype t) := rfl
theorem wiretypeof (v : Byte) : Statement (.wiretypeof v) := rfl
theorem wirecode (T : FrameType) : Statement (.wirecode T) := rfl
theorem encode (t : Byte) (p : Bytes) : Statement (.encode t p) := rfl
theorem validate (b : Bytes) : Statement (.validate b) := rfl
theorem transmit (t : Byte) (p : Bytes) : Statement (.transmit t p) := rfl
theorem parse : Statement (.parse) := rfl
theorem invoke : Statement (.invoke) := rfl
theorem dispatch (t : Byte) (p : Bytes) : Statement (.dispatch t p) := rfl
theorem drainPointer : Statement (.drainPointer) := rfl
theorem drainScroll : Statement (.drainScroll) := rfl
theorem peekButtons : Statement (.peekButtons) := rfl
theorem peekModifier : Statement (.peekModifier) := rfl
theorem peekKeys : Statement (.peekKeys) := rfl
theorem sessionStart : Statement (.sessionStart) := rfl
theorem sessionEnd : Statement (.sessionEnd) := rfl
theorem send (b : Bytes) : Statement (.send b) := rfl

end Sys2Proof.Laws.RowHead
end

