-- ==== Sys2Proof/Tests/Slice0.lean ====
section
/-! SUPPORT. Tests of the model on fixed values, and the witnesses of the statements' hypotheses.

Expected values are the spec's own: E1, E2 and the vectors V1 to V78 of 95_test_vectors.md, and words written out bit by bit
from the layouts of R85 to R92 and the labels of R104. -/

namespace Sys2Proof.Machine.Tests

open Sys2Proof Sys2Proof.Machine

/-! ## Helpers -/

/-- The reset state with these registers. -/
def withRegs (r : Regs) : State := State.reset.withSession (.on r)

/-- The reset state with this inbound buffer. -/
def withBuffer (b : Bytes) : State := State.reset.withRxbuf b

/-- The reset state outside a session. -/
def offState : State := State.reset.withSession .off

/-- Some registers, no two alike. -/
def someRegs : Regs := ⟨7#32, 8#32, 9#32, 10#32, 0x01#8, 0x02#8, 0x04#8, 0x05#8, 0x06#8, 0x07#8, 0x08#8, 0x09#8⟩

/-- The next state, if the outcome is one. -/
def nextOf (o : Outcome) : Option State :=
  match o with
  | .next s => some s
  | .fault _ => none
  | .refused _ => none

/-- What an outcome delivers. -/
def resultOf (o : Outcome) : Option Result := (nextOf o).map (·.result)

/-- The session after an outcome. -/
def sessionOf (o : Outcome) : Option Session := (nextOf o).map (·.session)

/-- The refusal, if the outcome is one. -/
def refusalOf (o : Outcome) : Option Refusal :=
  match o with
  | .next _ => none
  | .fault _ => none
  | .refused r => some r

/-- The result of an operation on the reset state. -/
def run (i : Instr) : Option Result := resultOf (exec i State.reset)

/-- What INVOKE delivers on this buffer. -/
def invoked (b : Bytes) : Option Result := resultOf (exec .invoke (withBuffer b))

/-- The length of a list of equal bytes, without unrolling it. -/
theorem fitsPlen_replicate (n : Nat) : fitsPlen (List.replicate n 0x00#8) = decide (n < 2 ^ Config.plenW) := by
  rw [fitsPlen, List.length_replicate]

/-! ## WellFormed: each check refuses an ill-formed term (D18) -/

theorem test_illFormed_encode : (Instr.encode 0xAA#8 (List.replicate 256 0x00#8)).wellFormed = false :=
  fitsPlen_replicate 256
theorem test_illFormed_validate : (Instr.validate (List.replicate 256 0x00#8)).wellFormed = false :=
  fitsPlen_replicate 256
theorem test_illFormed_transmit : (Instr.transmit 0xAA#8 (List.replicate 256 0x00#8)).wellFormed = false :=
  fitsPlen_replicate 256
theorem test_illFormed_send : (Instr.send (List.replicate 256 0x00#8)).wellFormed = false :=
  fitsPlen_replicate 256
theorem test_wellFormed_boundary : (Instr.send (List.replicate 255 0x00#8)).wellFormed = true :=
  fitsPlen_replicate 255

/-! ## Decode: words written out from the spec's encodings -/

/-- R85. -/
theorem test_decode_setMousePos :
    decode [0b10101011#8, 0b00000100#8, 0b10101010#8, 0b00000101#8, 0b11111011#8, 0b01010100#8] =
      .ok (.setMousePos 0x05#8 0xFB#8) := by rfl
/-- R86. -/
theorem test_decode_setMouseScroll :
    decode [0b10101011#8, 0b00000011#8, 0b10101011#8, 0b00000001#8, 0b10101010#8] = .ok (.setMouseScroll 0x01#8) := by rfl
/-- R87. -/
theorem test_decode_setMousePress :
    decode [0b10101011#8, 0b00000011#8, 0b10101100#8, 0b00000001#8, 0b10101101#8] = .ok (.setMousePress 0x01#8) := by rfl
/-- R88. -/
theorem test_decode_setMouseRelease :
    decode [0b10101011#8, 0b00000011#8, 0b10101101#8, 0b00000000#8, 0b10101101#8] = .ok (.setMouseRelease 0x00#8) := by rfl
/-- R89. -/
theorem test_decode_setKeyboardPress :
    decode [0b10101011#8, 0b00000100#8, 0b10111011#8, 0b00000010#8, 0b00000100#8, 0b10111101#8] =
      .ok (.setKeyboardPress 0x02#8 0x04#8) := by rfl
/-- R90. -/
theorem test_decode_setKeyboardRelease :
    decode [0b10101011#8, 0b00000100#8, 0b10111100#8, 0b00000000#8, 0b00000000#8, 0b10111100#8] =
      .ok (.setKeyboardRelease 0x00#8 0x00#8) := by rfl
/-- R91. -/
theorem test_decode_getMouseData :
    decode [0b10101011#8, 0b00000111#8, 0b11001010#8, 0b11111111#8, 0b01111111#8, 0b10000000#8, 0b11111111#8, 0b00000001#8,
        0b00110100#8] =
      .ok (.getMouseData 0xFF#8 0x7F#8 0x80#8 0xFF#8 0x01#8) := by rfl
/-- R92. -/
theorem test_decode_getKeyboardData :
    decode [0b10101011#8, 0b00001010#8, 0b11011010#8, 0b00000010#8, 0b00000100#8, 0b00000101#8, 0b00000110#8, 0b00000111#8,
        0b00001000#8, 0b00001001#8, 0b00001010#8, 0b11010011#8] =
      .ok (.getKeyboardData 0x02#8 0x04#8 0x05#8 0x06#8 0x07#8 0x08#8 0x09#8 0x0A#8) := by rfl
/-- R104: `op_sel` 0 to 5. -/
theorem test_decode_checksum_and_registry :
    decode [0b00000000#8, 0xAA#8, 0x05#8] = .ok (.xorsum [0xAA#8, 0x05#8]) ∧
    decode [0b00000001#8, 0x54#8, 0xAA#8, 0x05#8] = .ok (.xorvalid [0xAA#8, 0x05#8] 0x54#8) ∧
    decode [0b00000010#8, 0xCA#8] = .ok (.lengthof 0xCA#8) ∧
    decode [0b00000011#8, 0xEE#8] = .ok (.isvalidtype 0xEE#8) ∧
    decode [0b00000100#8, 0xEE#8] = .ok (.wiretypeof 0xEE#8) ∧
    decode [0b00000101#8, 0xDA#8] = .ok (.wirecode .getKeyboardData) := ⟨rfl, rfl, rfl, rfl, rfl, rfl⟩
/-- R104: `op_sel` 6 to 8 and 19. -/
theorem test_decode_encoder :
    decode [0b00000110#8, 0xAB#8, 0x01#8] = .ok (.encode 0xAB#8 [0x01#8]) ∧
    decode [0b00000111#8, 0xAB#8, 0x01#8] = .ok (.validate [0xAB#8, 0x01#8]) ∧
    decode [0b00001000#8, 0xAC#8, 0x01#8] = .ok (.transmit 0xAC#8 [0x01#8]) ∧
    decode [0b00010011#8, 0xAB#8, 0x04#8] = .ok (.send [0xAB#8, 0x04#8]) := ⟨rfl, rfl, rfl, rfl⟩
/-- R104: `op_sel` 9 to 18. -/
theorem test_decode_parser_dispatcher_session :
    decode [0b00001001#8] = .ok .parse ∧
    decode [0b00001010#8] = .ok .invoke ∧
    decode [0b00001011#8, 0xCA#8, 0x00#8] = .ok (.dispatch 0xCA#8 [0x00#8]) ∧
    decode [0b00001100#8] = .ok .drainPointer ∧
    decode [0b00001101#8] = .ok .drainScroll ∧
    decode [0b00001110#8] = .ok .peekButtons ∧
    decode [0b00001111#8] = .ok .peekModifier ∧
    decode [0b00010000#8] = .ok .peekKeys ∧
    decode [0b00010001#8] = .ok .sessionStart ∧
    decode [0b00010010#8] = .ok .sessionEnd := ⟨rfl, rfl, rfl, rfl, rfl, rfl, rfl, rfl, rfl, rfl⟩
/-- R104: `op_sel` 20 to 31 are undefined; a request that is cut off or too long is refused too. -/
theorem test_decode_refuses :
    decode [0b00010100#8] = .error (.undefinedOpSel 0x14#8) ∧
    decode [0b00011111#8] = .error (.undefinedOpSel 0x1F#8) ∧
    decode [] = .error .noOperation ∧
    decode [0b00000010#8] = .error .missingOperand ∧
    decode [0b00001100#8, 0x00#8] = .error .extraBytes := ⟨rfl, rfl, rfl, rfl, rfl⟩
/-- D18: 256 bytes are one too many. -/
theorem test_decode_refuses_too_long :
    decode (0b00010011#8 :: List.replicate 256 0x00#8) = .error .operandTooLong :=
  have long (b : Bytes) (h : fitsPlen b = false) : decode (0b00010011#8 :: b) = .error .operandTooLong := by
    show bounded b (.send b) = _
    simp [bounded, h]
  long _ (fitsPlen_replicate 256)

/-- R105: for each frame row its fixed bytes, a payload of zeros and the checksum R83 gives (the type code; V15, V19, V21, V23). -/
theorem test_tableWord_frames :
    decodeTableWord 48 0xAB04AA0000AA = some (.setMousePos 0x00#8 0x00#8) ∧
    decodeTableWord 40 0xAB03AB00AB = some (.setMouseScroll 0x00#8) ∧
    decodeTableWord 40 0xAB03AC00AC = some (.setMousePress 0x00#8) ∧
    decodeTableWord 40 0xAB03AD00AD = some (.setMouseRelease 0x00#8) ∧
    decodeTableWord 48 0xAB04BB0000BB = some (.setKeyboardPress 0x00#8 0x00#8) ∧
    decodeTableWord 48 0xAB04BC0000BC = some (.setKeyboardRelease 0x00#8 0x00#8) ∧
    decodeTableWord 72 0xAB07CA0000000000CA = some (.getMouseData 0x00#8 0x00#8 0x00#8 0x00#8 0x00#8) ∧
    decodeTableWord 96 0xAB0ADA0000000000000000DA =
      some (.getKeyboardData 0x00#8 0x00#8 0x00#8 0x00#8 0x00#8 0x00#8 0x00#8 0x00#8) :=
  ⟨rfl, rfl, rfl, rfl, rfl, rfl, rfl, rfl⟩
/-- R105: byte 0 is the most significant; a word whose last byte is not the checksum is no frame, a row's `match` word included. -/
theorem test_tableWord_r105 :
    decodeTableWord 48 0xAB04AA05FB54 = some (.setMousePos 0x05#8 0xFB#8) ∧
    decodeTableWord 48 0x54FB05AA04AB = none ∧
    decodeTableWord 72 0xAB07CAAC0000CA07AB = some (.getMouseData 0xAC#8 0x00#8 0x00#8 0xCA#8 0x07#8) ∧
    decodeTableWord 48 0xAB04AA05FB55 = none ∧
    decodeTableWord 48 0xAB04AA000000 = none := ⟨rfl, rfl, rfl, rfl, rfl⟩
/-- Operation words: operands the table gives no bits are zero or empty. -/
theorem test_tableWord_operations :
    decodeTableWord 8 0 = some (.xorsum []) ∧
    decodeTableWord 8 1 = some (.xorvalid [] 0x00#8) ∧
    decodeTableWord 8 2 = some (.lengthof 0x00#8) ∧
    decodeTableWord 8 5 = some (.wirecode .unknown) ∧
    decodeTableWord 8 6 = some (.encode 0x00#8 []) ∧
    decodeTableWord 8 12 = some .drainPointer ∧
    decodeTableWord 8 19 = some (.send []) ∧
    decodeTableWord 8 20 = none := ⟨rfl, rfl, rfl, rfl, rfl, rfl, rfl, rfl⟩
/-- The next step runs the placed instruction: the frame of E2, and a drain. -/
theorem test_withFetchWord :
    (State.reset.withFetchWord 72 0xAB07CA000AF6000036).nextInstr =
      some (.getMouseData 0x00#8 0x0A#8 0xF6#8 0x00#8 0x00#8) ∧
    (State.reset.withFetchWord 8 12).nextInstr = some .drainPointer ∧
    sessionOf (step (State.reset.withFetchWord 72 0xAB07CA000AF6000036)) =
      some (.on { Regs.zero with dx := 10#32, dy := (-10 : Int) }) := by decide

/-! ## checksum_unit -/

/-- V1, V2, V3, V4, V5, V6. -/
theorem test_xorsum :
    run (.xorsum []) = some (.byte 0x00#8) ∧
    run (.xorsum [0xAA#8, 0x05#8, 0xFB#8]) = some (.byte 0x54#8) ∧
    run (.xorsum [0xFB#8, 0x05#8, 0xAA#8]) = some (.byte 0x54#8) ∧
    run (.xorsum [0xFF#8]) = some (.byte 0xFF#8) ∧
    run (.xorsum [0xAB#8, 0xAB#8]) = some (.byte 0x00#8) ∧
    run (.xorsum [0xCA#8, 0x00#8, 0x0A#8, 0xF6#8, 0x00#8, 0x00#8]) = some (.byte 0x36#8) := by decide
/-- V7, V8. -/
theorem test_xorvalid :
    run (.xorvalid [0xAA#8, 0x05#8, 0xFB#8] 0x54#8) = some (.bit true) ∧
    run (.xorvalid [0xAA#8, 0x05#8, 0xFB#8] 0x55#8) = some (.bit false) ∧
    run (.xorvalid [] 0x00#8) = some (.bit true) ∧
    run (.xorvalid [] 0x01#8) = some (.bit false) := by decide

/-! ## registry -/

/-- V9, V10. -/
theorem test_lengthof :
    [0xAA#8, 0xAB#8, 0xAC#8, 0xAD#8, 0xBB#8, 0xBC#8, 0xCA#8, 0xDA#8].map (fun t => run (.lengthof t)) =
      [6, 5, 5, 5, 6, 6, 9, 12].map (fun n => some (.length n)) ∧
    ∀ t ∈ [0xFF#8, 0x00#8, 0xA9#8, 0xAE#8], run (.lengthof t) = some (.err .invalidFrameType) := by decide
/-- V11, V12. -/
theorem test_isvalidtype :
    (∀ t ∈ [0xAA#8, 0xAB#8, 0xAC#8, 0xAD#8, 0xBB#8, 0xBC#8, 0xCA#8, 0xDA#8], run (.isvalidtype t) = some (.bit true)) ∧
    ∀ t ∈ [0xFF#8, 0x00#8, 0xA9#8, 0xAE#8, 0xBA#8, 0xBD#8, 0xC9#8, 0xCB#8, 0xD9#8, 0xDB#8],
      run (.isvalidtype t) = some (.bit false) := by decide
/-- V13. -/
theorem test_wiretypeof :
    run (.wiretypeof 0xCA#8) = some (.frameType .getMouseData) ∧
    run (.wiretypeof 0xEE#8) = some (.frameType .unknown) ∧
    run (.wiretypeof 0xFF#8) = some (.frameType .unknown) := by decide
/-- V14. -/
theorem test_wirecode :
    run (.wirecode .setMouseScroll) = some (.byte 0xAB#8) ∧ run (.wirecode .unknown) = some (.byte 0xFF#8) := by decide

/-! ## frame_encoder -/

/-- E1, V16, V17, V20, V22, V23. -/
theorem test_encode_frames :
    run (.encode 0xAA#8 [0x05#8, 0xFB#8]) = some (.bytes [0xAB#8, 0x04#8, 0xAA#8, 0x05#8, 0xFB#8, 0x54#8]) ∧
    run (.encode 0xAA#8 [0x80#8, 0x7F#8]) = some (.bytes [0xAB#8, 0x04#8, 0xAA#8, 0x80#8, 0x7F#8, 0x55#8]) ∧
    run (.encode 0xAB#8 [0xFF#8]) = some (.bytes [0xAB#8, 0x03#8, 0xAB#8, 0xFF#8, 0x54#8]) ∧
    run (.encode 0xBB#8 [0x02#8, 0x04#8]) = some (.bytes [0xAB#8, 0x04#8, 0xBB#8, 0x02#8, 0x04#8, 0xBD#8]) ∧
    run (.encode 0xCA#8 [0xFF#8, 0x7F#8, 0x80#8, 0xFF#8, 0x01#8]) =
      some (.bytes [0xAB#8, 0x07#8, 0xCA#8, 0xFF#8, 0x7F#8, 0x80#8, 0xFF#8, 0x01#8, 0x34#8]) ∧
    run (.encode 0xDA#8 [0x02#8, 0x04#8, 0x05#8, 0x06#8, 0x07#8, 0x08#8, 0x09#8, 0x0A#8]) =
      some (.bytes [0xAB#8, 0x0A#8, 0xDA#8, 0x02#8, 0x04#8, 0x05#8, 0x06#8, 0x07#8, 0x08#8, 0x09#8, 0x0A#8, 0xD3#8]) := by
  decide
/-- V24, V25, V27, V28, V29. -/
theorem test_encode_errors :
    run (.encode 0xFF#8 []) = some (.err .invalidFrameType) ∧
    run (.encode 0xA9#8 [0x05#8, 0xFB#8]) = some (.err .invalidFrameType) ∧
    run (.encode 0xAA#8 [0x05#8]) = some (.err .payloadLengthMismatch) ∧
    run (.encode 0xAA#8 [0x05#8, 0x06#8, 0x07#8]) = some (.err .payloadLengthMismatch) ∧
    run (.encode 0xCA#8 []) = some (.err .payloadLengthMismatch) ∧
    run (.encode 0xDA#8 (List.replicate 7 0x00#8)) = some (.err .payloadLengthMismatch) := by decide
/-- V51, V57: what passes. -/
theorem test_validate_passes :
    ∀ b ∈ [[0xAB#8, 0x04#8, 0xAA#8, 0x05#8, 0xFB#8, 0x54#8], [0xAB#8, 0x00#8, 0xAA#8, 0x05#8, 0xFB#8, 0x54#8],
      [0xAB#8, 0x04#8, 0xAA#8, 0x05#8, 0xFB#8, 0x00#8, 0x54#8], [0xAB#8, 0x03#8, 0xAA#8, 0x05#8, 0xAF#8]],
      run (.validate b) = some (.bit true) := by decide
/-- V52 to V56: what each check rejects. -/
theorem test_validate_rejects :
    ∀ b ∈ [[0xAB#8, 0x04#8, 0xAA#8, 0x05#8, 0xFB#8, 0x55#8], [0xAB#8, 0x03#8, 0xAB#8, 0xFF#8], [], [0xAB#8],
      [0xAB#8, 0x0B#8, 0xDA#8, 0x02#8, 0x00#8, 0x04#8, 0x05#8, 0x00#8, 0x00#8, 0x00#8, 0x00#8, 0x00#8, 0xD9#8],
      [0xAA#8, 0x04#8, 0xAA#8, 0x05#8, 0xFB#8, 0x54#8], [0xAB#8, 0x04#8, 0xEE#8, 0x05#8, 0xFB#8, 0x10#8],
      [0xAB#8, 0x04#8, 0xFF#8, 0x05#8, 0xFB#8, 0x01#8]],
      run (.validate b) = some (.bit false) := by decide
/-- V58, V59. -/
theorem test_send :
    nextOf (exec (.send [0xAB#8, 0x04#8, 0xAA#8, 0x05#8, 0xFB#8, 0x55#8]) State.reset) =
      some (State.reset.deliver (.err .invalidFrame)) ∧
    nextOf (exec (.send [0xAB#8, 0x04#8, 0xBB#8, 0x02#8, 0x04#8, 0xBD#8]) State.reset) =
      some ((State.reset.withTxlog [[0xAB#8, 0x04#8, 0xBB#8, 0x02#8, 0x04#8, 0xBD#8]]).deliver .ok) := by decide
/-- V60, V61. -/
theorem test_transmit :
    nextOf (exec (.transmit 0xAA#8 [0x05#8, 0xFB#8]) State.reset) =
      some ((State.reset.withTxlog [[0xAB#8, 0x04#8, 0xAA#8, 0x05#8, 0xFB#8, 0x54#8]]).deliver .ok) ∧
    nextOf (exec (.transmit 0xEE#8 [0x01#8]) State.reset) = some (State.reset.deliver (.err .invalidFrameType)) ∧
    nextOf (exec (.transmit 0xBB#8 [0x02#8]) State.reset) =
      some (State.reset.deliver (.err .payloadLengthMismatch)) := by decide

/-! ## stream_parser -/

/-- V26, V30, V31, V32, V35, V44, V45, V47. -/
theorem test_invoke_discards :
    invoked [0xAB#8, 0x01#8, 0x00#8] = some (.parsed (.noFrame .unknownType)) ∧
    invoked [0xAB#8, 0x04#8, 0xAA#8, 0x05#8, 0xFB#8, 0x55#8] = some (.parsed (.noFrame .badChecksum)) ∧
    invoked [0xAB#8, 0x04#8, 0xAB#8, 0x05#8, 0xFB#8, 0x54#8] = some (.parsed (.noFrame .badChecksum)) ∧
    invoked [0xAB#8, 0x03#8, 0xEE#8, 0x01#8, 0xEF#8] = some (.parsed (.noFrame .unknownType)) ∧
    invoked [] = some (.parsed (.noFrame .empty)) ∧
    invoked [0x00#8, 0xAB#8, 0x04#8, 0xAA#8, 0x05#8, 0xFB#8, 0x54#8] = some (.parsed (.noFrame .noStart)) ∧
    invoked [0xAB#8, 0x00#8] = some (.parsed (.noFrame .badLength)) ∧
    invoked [0xAB#8, 0xFF#8] = some (.parsed (.noFrame .badLength)) ∧
    invoked [0xAB#8, 0x04#8, 0xFF#8, 0x05#8, 0xFB#8, 0x01#8] = some (.parsed (.noFrame .unknownType)) := by decide
/-- V40, V41: the first frame is dispatched, everything is flushed. -/
theorem test_invoke_one_frame :
    nextOf (exec .invoke (withBuffer ([0xAB#8, 0x07#8, 0xCA#8, 0x00#8, 0x01#8, 0x00#8, 0x00#8, 0x00#8, 0xCB#8] ++
        [0xAB#8, 0x07#8, 0xCA#8, 0x00#8, 0x00#8, 0x01#8, 0x00#8, 0x00#8, 0xCB#8]))) =
      some ((withRegs { Regs.zero with dx := 1#32 }).deliver
        (.parsed (.frame 0xCA#8 [0x00#8, 0x01#8, 0x00#8, 0x00#8, 0x00#8]))) := by decide
/-- V43, V46, V48, V49, V64, on PARSE; PARSE leaves the buffer (log entry 5). -/
theorem test_parse :
    parse [0xAB#8, 0x07#8, 0xCA#8, 0x00#8, 0x0A#8, 0xF6#8, 0x00#8, 0x00#8, 0x36#8] =
      .frame 0xCA#8 [0x00#8, 0x0A#8, 0xF6#8, 0x00#8, 0x00#8] ∧
    parse [0xAB#8, 0x05#8, 0xAA#8, 0x05#8, 0xFB#8, 0x54#8, 0x00#8] = .noFrame .lengthMismatch ∧
    parse [0xAB#8] = .noFrame .short ∧
    parse [0xAB#8, 0x04#8, 0xAA#8, 0x05#8, 0xFB#8] = .noFrame .short ∧
    parse [0xAB#8, 0x02#8, 0xAA#8, 0xAA#8] = .noFrame .lengthMismatch ∧
    parse [0xAB#8, 0x03#8, 0xAB#8, 0xAB#8, 0x00#8] = .frame 0xAB#8 [0xAB#8] ∧
    nextOf (exec .parse (withBuffer [0xAB#8])) = some ((withBuffer [0xAB#8]).deliver (.parsed (.noFrame .short))) := by
  decide
/-- The literal column of V46 and V49: the seven steps without the length test. -/
theorem test_parse_without_lenCheck :
    parseWith false [0xAB#8, 0x05#8, 0xAA#8, 0x05#8, 0xFB#8, 0x54#8, 0x00#8] = .frame 0xAA#8 [0x05#8, 0xFB#8, 0x54#8] ∧
    parseWith false [0xAB#8, 0x02#8, 0xAA#8, 0xAA#8] = .frame 0xAA#8 [] ∧
    parseWith false [0xAB#8, 0x01#8, 0x00#8] = .noFrame .unknownType := by decide

/-! ## frame_dispatcher and the received frames -/

/-- V65, second frame. -/
theorem test_dispatch_mouse :
    sessionOf (exec (.dispatch 0xCA#8 [0xFF#8, 0x7F#8, 0x80#8, 0xFF#8, 0x01#8])
      (withRegs { Regs.zero with dx := 127#32, dy := (-128 : Int), dw := (-1 : Int), dh := 1#32 })) =
      some (.on { Regs.zero with dx := 254#32, dy := (-256 : Int), dw := (-2 : Int), dh := 2#32, btn := 0xFF#8 }) := by decide
/-- V71; V34 with either `KEY_BASE`. -/
theorem test_dispatch_keyboard :
    sessionOf (exec (.dispatch 0xDA#8 (List.replicate 8 0x00#8)) (withRegs someRegs)) =
      some (.on { Regs.zero with dx := 7#32, dy := 8#32, dw := 9#32, dh := 10#32, btn := 0x01#8 }) ∧
    (dispatchWith 1 0xDA#8 [0x02#8, 0x00#8, 0x04#8, 0x05#8, 0x00#8, 0x00#8, 0x00#8, 0x00#8] Regs.zero).map Regs.keys =
      some [0x00#8, 0x04#8, 0x05#8, 0x00#8, 0x00#8, 0x00#8] ∧
    (dispatchWith 2 0xDA#8 [0x02#8, 0x00#8, 0x04#8, 0x05#8, 0x00#8, 0x00#8, 0x00#8, 0x00#8] Regs.zero).map Regs.keys =
      some [0x04#8, 0x05#8, 0x00#8, 0x00#8, 0x00#8, 0x00#8] := by decide
/-- V68: wrap at 2^31. -/
theorem test_getMouseData_wraps :
    sessionOf (exec (.getMouseData 0x00#8 0x01#8 0x00#8 0x00#8 0x00#8) (withRegs { Regs.zero with dx := 0x7FFFFFFF#32 })) =
      some (.on { Regs.zero with dx := 0x80000000#32 }) := by decide
/-- V33, V72: every slot replaced, `payload[7]` not used, the pointer group untouched. -/
theorem test_getKeyboardData :
    sessionOf (exec (.getKeyboardData 0x02#8 0x04#8 0x05#8 0x06#8 0x07#8 0x08#8 0x09#8 0x0A#8)
      (withRegs { Regs.zero with dx := 7#32, btn := 0x01#8, key5 := 0x33#8 })) =
      some (.on { someRegs with dy := 0#32, dw := 0#32, dh := 0#32 }) := by decide
/-- V70, V36 to V39, V43: a received Set frame writes no register; the buffer is flushed. -/
theorem test_received_set_frames :
    ∀ i ∈ [Instr.setMousePos 0x05#8 0xFB#8, .setMouseScroll 0x01#8, .setMousePress 0x01#8, .setMouseRelease 0x00#8,
        .setKeyboardPress 0x02#8 0x04#8, .setKeyboardRelease 0x00#8 0x00#8],
      (nextOf (exec i ((withRegs someRegs).withRxbuf (encode i)))).map (fun s => (s.session, s.rxbuf)) =
        some (.on someRegs, []) := by decide
/-- R206, V65: the scroll accumulators stay. -/
theorem test_drainPointer :
    nextOf (exec .drainPointer (withRegs someRegs)) =
      some ((withRegs { someRegs with dx := 0#32, dy := 0#32 }).deliver (.deltas 7#32 8#32)) := by decide
/-- R207, V66. -/
theorem test_drainScroll :
    nextOf (exec .drainScroll (withRegs someRegs)) =
      some ((withRegs { someRegs with dw := 0#32, dh := 0#32 }).deliver (.deltas 9#32 10#32)) := by decide
/-- V67, R208 to R210: level state is not drained. -/
theorem test_peeks :
    nextOf (exec .peekButtons (withRegs someRegs)) = some ((withRegs someRegs).deliver (.byte 0x01#8)) ∧
    nextOf (exec .peekModifier (withRegs someRegs)) = some ((withRegs someRegs).deliver (.byte 0x02#8)) ∧
    nextOf (exec .peekKeys (withRegs someRegs)) =
      some ((withRegs someRegs).deliver (.keys [0x04#8, 0x05#8, 0x06#8, 0x07#8, 0x08#8, 0x09#8])) := by decide

/-! ## sessions and steps -/

/-- V78: bytes readable before the session stay. -/
theorem test_sessionStart :
    nextOf (exec .sessionStart (offState.withRxbuf [0xAB#8])) = some (withBuffer [0xAB#8]) := by decide
/-- V75. -/
theorem test_sessionEnd : nextOf (exec .sessionEnd (withRegs someRegs)) = some offState := by decide
/-- V76, V77. -/
theorem test_session_refusals :
    refusalOf (exec .drainPointer offState) = some .noSession ∧
    refusalOf (exec .invoke offState) = some .noSession ∧
    refusalOf (exec (.transmit 0xAA#8 [0x05#8, 0xFB#8]) offState) = some .noSession ∧
    resultOf (exec (.encode 0xAA#8 [0x05#8, 0xFB#8]) offState) =
      some (.bytes [0xAB#8, 0x04#8, 0xAA#8, 0x05#8, 0xFB#8, 0x54#8]) ∧
    refusalOf (exec .sessionStart State.reset) = some .sessionLive := by decide
/-- R51, R237: ARRIVE, then the notification it raised is served. -/
theorem test_step_arrive :
    nextOf (step (State.reset.withAgenda [.arrive 0xAB#8 [0x00#8] true])) =
      some ((withBuffer [0xAB#8, 0x00#8]).withNotifications 1) ∧
    nextOf (step ((withBuffer [0xAB#8, 0x00#8]).withNotifications 1)) =
      some (State.reset.deliver (.parsed (.noFrame .badLength))) := by decide
/-- E2, R237: a step that serves a pending notification dispatches the frame in the buffer. -/
theorem test_step_serves_notification :
    sessionOf (step ((withBuffer [0xAB#8, 0x07#8, 0xCA#8, 0x00#8, 0x0A#8, 0xF6#8, 0x00#8, 0x00#8, 0x36#8]).withNotifications 1)) =
      some (.on { Regs.zero with dx := 10#32, dy := (-10 : Int) }) := by decide
/-- R235: the output codes. -/
theorem test_outputs :
    errOutput (.err .invalidFrame) = 3 ∧ errOutput .ok = 0 ∧ diagOutput (.noFrame .lengthMismatch) = 7 ∧
    diagOutput (.frame 0xAA#8 []) = 0 := by decide

/-! ## Witnesses: concrete values that meet the hypotheses of each statement -/

/-- The reset state is in a session: the hypothesis `s.session = .on r` of every statement that has no other
(SetMouseFramesEncodeAndDispatch, SetKeyboardFramesEncodeAndDispatch, ReceivedSetFramesWriteNoRegister,
InboundAnomaliesNeverStopTheBlock, GetMouseDataAccumulates, GetKeyboardDataReplacesTheKeys, ReceivedGetFramesUpdateTheState,
DrainPointerReadsAndClears, DrainScrollReadsAndClears, PeeksReturnTheLevelState,
DispatchAndDrainInEitherOrder, SessionEndTakesTheStateAway). -/
theorem witness_session_on : (withRegs someRegs).session = .on someRegs ∧ State.reset.session = .on Regs.zero := by decide
/-- OutsideASessionOnlyPureOperationsRun, both clauses; FramesOutsideASessionAreRefused; SessionStartZeroesEveryRegister;
ResetIsTheStateAfterSessionStart. -/
theorem witness_OutsideASessionOnlyPureOperationsRun :
    offState.session = .off ∧
      ((Instr.xorsum []).opSel ≠ none ∧ Instr.xorsum [] ≠ .sessionStart ∧ (Instr.xorsum []).role = .anyone) ∧
      ((Instr.parse).opSel ≠ none ∧ Instr.parse ≠ .sessionStart) ∧
      ((Instr.drainPointer).opSel ≠ none ∧ Instr.drainPointer ≠ .sessionStart ∧ (Instr.drainPointer).role = .consumer) ∧
      (Instr.setMouseScroll 0x01#8).opSel = none := by decide
theorem witness_XorsumAlgebraicLaws :
    [0x01#8, 0x02#8].Perm [0x02#8, 0x01#8] ∧
      (0 < [0x01#8, 0x02#8].length ∧ [0x01#8, 0x02#8][0]? ≠ some 0x03#8) ∧
      (1 < [0x01#8, 0x02#8].length ∧ [0x01#8, 0x02#8][1]? ≠ some 0x03#8) := by decide
theorem witness_LengthofReadsTheRegistry :
    (0xAA#8, 6) ∈ specTable ∧ (0xDA#8, 12) ∈ specTable ∧ 0x00#8 ∉ specCodes ∧ 0xFF#8 ∉ specCodes := by decide
theorem witness_WireTypesAndCodesFollowTheTables :
    (FrameType.setMousePos, 0xAA#8) ∈ specNames ∧ 0xA9#8 ∉ specCodes ∧ 0xDB#8 ∉ specCodes := by decide
/-- Each clause, at the shortest and the longest payload. -/
theorem witness_EncodeBuildsTheFrame :
    0xFF#8 ∉ specCodes ∧ ((0xAB#8, 5) ∈ specTable ∧ ([] : Bytes).length ≠ 5 - 4) ∧
      ((0xDA#8, 12) ∈ specTable ∧ (List.replicate 9 0x00#8).length ≠ 12 - 4) ∧
      ((0xAB#8, 5) ∈ specTable ∧ [0x01#8].length = 5 - 4) ∧
      ((0xDA#8, 12) ∈ specTable ∧ (List.replicate 8 0x00#8).length = 12 - 4) := by decide
theorem witness_TransmitRunsTheOutgoingFlow :
    State.reset.session = .on Regs.zero ∧ 0x00#8 ∉ specCodes ∧
      ((0xAC#8, 5) ∈ specTable ∧ [0x01#8, 0x02#8].length ≠ 5 - 4) ∧
      ((0xCA#8, 9) ∈ specTable ∧ (List.replicate 5 0x00#8).length = 9 - 4) := by decide
/-- The length clauses of SetMouseFramesEncodeAndDispatch, SetKeyboardFramesEncodeAndDispatch and GetFramesCanBeEncoded. -/
theorem witness_SetAndGetPayloadsOfAnotherLength :
    State.reset.session = .on Regs.zero ∧ ([] : Bytes).length ≠ 1 ∧ [0x05#8].length ≠ 2 ∧ (List.replicate 4 0x00#8).length ≠ 5 ∧
      (List.replicate 9 0x00#8).length ≠ 8 := by decide
theorem witness_ValidateIgnoresTheLengthByteAndTheTypesLength :
    0xAA#8 ∈ specCodes ∧ (1 ≤ [0x05#8].length ∧ [0x05#8].length ≤ 8) ∧
      (1 ≤ (List.replicate 8 0x00#8).length ∧ (List.replicate 8 0x00#8).length ≤ 8) := by decide
/-- EncodedFramesPassTheValidator and EncodeThenParseReturnsTypeAndPayload. -/
theorem witness_EncodedFramesPassTheValidator :
    ∃ s', exec (.encode 0xAB#8 [0x01#8]) State.reset = .next s' ∧
      s'.result = .bytes [0xAB#8, 0x03#8, 0xAB#8, 0x01#8, 0xAA#8] := ⟨_, rfl, rfl⟩
theorem witness_SendWritesOnlyWhatPasses :
    State.reset.session = .on Regs.zero ∧ specValid [0xAB#8, 0x04#8, 0xBB#8, 0x02#8, 0x04#8, 0xBD#8] ∧
      ¬ specValid [0xAB#8, 0x04#8, 0xAA#8, 0x05#8, 0xFB#8, 0x55#8] ∧ ¬ specValid [] := by
  unfold specValid; decide
/-- Equal in the first twelve bytes, different behind them; and a length byte no greater than what follows it. -/
theorem witness_ParserReadsAtMostTwelveBytes :
    (List.replicate 12 0xAB#8 ++ [0x01#8]).take 12 = (List.replicate 12 0xAB#8 ++ [0x02#8]).take 12 ∧
      (0x02#8).toNat ≤ [0x00#8, 0x00#8].length ∧ (0x00#8).toNat ≤ ([] : Bytes).length := by decide
theorem witness_InvokeDispatchesAndFlushes :
    (withBuffer [0xAB#8, 0x03#8, 0xAB#8, 0x01#8, 0xAA#8]).session = .on Regs.zero ∧
      parseOfBuffer (withBuffer [0xAB#8, 0x03#8, 0xAB#8, 0x01#8, 0xAA#8]).rxbuf = .frame 0xAB#8 [0x01#8] ∧
      parseOfBuffer (withBuffer []).rxbuf = .noFrame .empty := by decide
/-- For each clause: the start marker, the length byte, and the first and last byte behind them; the lowest and highest bit. -/
theorem witness_SingleBitFlipsAreDiscarded :
    (0xDA#8, 12) ∈ specTable ∧ (List.replicate 8 0x00#8).length = 12 - 4 ∧ 0 < 12 ∧ 1 < 12 ∧ (2 ≤ 2 ∧ 2 < 12) ∧
      (2 ≤ 11 ∧ 11 < 12) ∧ 0 < 8 ∧ 7 < 8 := by decide
theorem witness_UnknownTypesAreDroppedSilently :
    0xEE#8 ∉ specCodes ∧ [0x01#8].length ≤ 8 ∧
      (withBuffer [0xAB#8, 0x03#8, 0xEE#8, 0x01#8, 0xEF#8]).session = .on Regs.zero ∧
      (withBuffer [0xAB#8, 0x03#8, 0xEE#8, 0x01#8, 0xEF#8]).rxbuf =
        [0xAB#8, BitVec.ofNat 8 ([0x01#8].length + 2), 0xEE#8] ++ [0x01#8] ++ [xorOf (0xEE#8 :: [0x01#8])] ++ [] := by
  decide
theorem witness_OnlyLegalPairsYieldFrames : parse [0xAB#8, 0x03#8, 0xAB#8, 0x01#8, 0xAA#8] = .frame 0xAB#8 [0x01#8] := by
  decide
theorem witness_DispatchOfSetTypesIsANoOp :
    State.reset.session = .on Regs.zero ∧ 0xAA#8 ∈ [0xAA#8, 0xAB#8, 0xAC#8, 0xAD#8, 0xBB#8, 0xBC#8] := by decide
/-- Each of the three cases; the two Get types one byte short and one long. -/
theorem witness_DispatchRefusesABrokenContract :
    State.reset.session = .on Regs.zero ∧ 0x00#8 ∉ specCodes ∧ (List.replicate 4 0x00#8).length ≠ 5 ∧
      (List.replicate 6 0x00#8).length ≠ 5 ∧ (List.replicate 7 0x00#8).length ≠ 8 ∧
      (List.replicate 9 0x00#8).length ≠ 8 := by decide
/-- Each clause: a mouse frame, a keyboard frame, and an operation that dispatches none. -/
theorem witness_OnlyDispatchedFramesChangeTheLevelState :
    (∃ s', exec (.dispatch 0xCA#8 [0x01#8, 0x02#8, 0x03#8, 0x04#8, 0x05#8]) State.reset = .next s' ∧
      State.reset.session = .on Regs.zero ∧
      s'.session = .on ⟨2#32, 3#32, 4#32, 5#32, 0x01#8, 0x00#8, 0x00#8, 0x00#8, 0x00#8, 0x00#8, 0x00#8, 0x00#8⟩) ∧
    frameDispatched (.dispatch 0xCA#8 [0x01#8, 0x02#8, 0x03#8, 0x04#8, 0x05#8]) State.reset =
      some (0xCA#8, [0x01#8, 0x02#8, 0x03#8, 0x04#8, 0x05#8]) ∧
    frameDispatched (.getKeyboardData 1#8 2#8 3#8 4#8 5#8 6#8 7#8 8#8) State.reset =
      some (0xDA#8, [1#8, 2#8, 3#8, 4#8, 5#8, 6#8, 7#8, 8#8]) ∧
    (∃ s', exec .peekKeys State.reset = .next s' ∧ s'.session = .on Regs.zero) ∧
    frameDispatched .peekKeys State.reset = none := ⟨⟨_, rfl, rfl, rfl⟩, rfl, rfl, ⟨_, rfl, rfl⟩, rfl⟩
/-- Two steps inside a session: a frame dispatched, then a drain. -/
theorem witness_DrainsLoseNothing :
    (withRegs { Regs.zero with dx := 4#32 }).session = .on { Regs.zero with dx := 4#32 } ∧
    (ledger .dx 2 ((withRegs { Regs.zero with dx := 4#32 }).withAgenda
        [.request [0x0B#8, 0xCA#8, 0x00#8, 0x02#8, 0x00#8, 0x00#8, 0x00#8], .request [0x0C#8]])).map (·.2) =
      some (2#32, 6#32) := by decide
theorem witness_AccumulatorIsExactBelowTwoToThe24Frames : [0x7F#8, 0x80#8].length < 2 ^ 24 := by decide
theorem witness_RaisedErrorsChangeNothing :
    (∃ s', exec (.lengthof 0x00#8) State.reset = .next s' ∧ s'.result = .err .invalidFrameType) ∧
    (∃ s', exec (.encode 0xAB#8 []) State.reset = .next s' ∧ s'.result = .err .payloadLengthMismatch) ∧
    (∃ s', exec (.send []) State.reset = .next s' ∧ s'.result = .err .invalidFrame) :=
  ⟨⟨_, rfl, rfl⟩, ⟨_, rfl, rfl⟩, ⟨_, rfl, rfl⟩⟩
/-- RolesBoundWhatOperationsWrite, each clause; NoOperationWritesTheInboundBuffer and TransportGetsWholeValidFramesInOrder have
the first hypothesis only. -/
theorem witness_RolesBoundWhatOperationsWrite :
    (∃ s', exec (.send []) State.reset = .next s') ∧ (Instr.send []).role = .issuer ∧
    (∃ s', exec .drainScroll State.reset = .next s') ∧ (Instr.drainScroll).role = .consumer ∧
    (∃ s', exec .invoke State.reset = .next s') ∧ (Instr.invoke).role ≠ .issuer ∧
    (∃ s', exec .sessionEnd State.reset = .next s' ∧ s'.live ≠ State.reset.live) ∧ (Instr.sessionEnd).role = .owner :=
  ⟨⟨_, rfl⟩, rfl, ⟨_, rfl⟩, rfl, ⟨_, rfl⟩, by decide, ⟨_, rfl, by decide⟩, rfl⟩
theorem witness_PureOperationsCommuteWithEverything :
    (Instr.xorsum []).role = .anyone ∧ (∃ s', exec .drainPointer State.reset = .next s') := ⟨rfl, _, rfl⟩
theorem witness_StepKeepsTheTransportRecordValid :
    (State.reset.withTxlog [[0xAB#8, 0x03#8, 0xAB#8, 0x01#8, 0xAA#8]]).Inv ∧
    (∃ s', step ((State.reset.withTxlog [[0xAB#8, 0x03#8, 0xAB#8, 0x01#8, 0xAA#8]]).withAgenda
      [.request [0x08#8, 0xAB#8, 0x01#8]]) = .next s') := ⟨by unfold State.Inv; decide, _, rfl⟩
theorem witness_StepRunsThePresentedOperation :
    (State.reset.withAgenda [.request [0x0C#8]]).agenda = .request [0x0C#8] :: [] ∧
      decodeRequest [0x0C#8] = .ok .drainPointer ∧ decodeRequest [] = .error .noOperation := ⟨rfl, rfl, rfl⟩
theorem witness_StepRunsTheFrameInTheBuffer :
    (State.reset.withAgenda [.serve]).agenda = .serve :: [] ∧
      decodeFrame [0xAB#8, 0x03#8, 0xAB#8, 0x01#8, 0xAA#8] = .ok (.setMouseScroll 0x01#8) ∧
      decodeFrame [] = .error (.noFrame .empty) := ⟨rfl, rfl, rfl⟩
theorem witness_ArriveAppendsAndIdleHolds :
    (State.reset.withAgenda [.arrive 0xAB#8 [] true]).agenda = .arrive 0xAB#8 [] true :: [] ∧
      (State.reset.agenda = [] ∧ State.reset.notifications = 0) ∧
      ((offState.withNotifications 1).agenda = [] ∧ (offState.withNotifications 1).live = false) := by decide
theorem witness_PendingNotificationsAreServedOneByOne :
    0 < (State.reset.withNotifications 2).notifications ∧ (State.reset.withNotifications 2).agenda = [] ∧ (State.reset.withNotifications 2).session = .on Regs.zero ∧
      2 ≤ (State.reset.withNotifications 2).notifications := by decide
theorem witness_DecodeOfEncodeIsTheInstruction :
    (Instr.send (List.replicate 255 0x00#8)).wellFormed = true ∧ (Instr.setMouseScroll 0x01#8).opSel = none :=
  ⟨test_wellFormed_boundary, rfl⟩
/-- DecodedBytesAreTheEncoding and DecodedInstructionsAreWellFormed. -/
theorem witness_DecodedBytesAreTheEncoding :
    decodeFrame [0xAB#8, 0x03#8, 0xAB#8, 0x01#8, 0xAA#8, 0x99#8] = .ok (.setMouseScroll 0x01#8) ∧
      decodeRequest [0x0C#8] = .ok .drainPointer ∧ (∀ T, Instr.drainPointer ≠ .wirecode T) ∧
      decode [0x0C#8] = .ok .drainPointer := ⟨rfl, rfl, fun _ => Instr.noConfusion, rfl⟩
theorem witness_EncodeOperationGivesTheFrameEncoding :
    (Instr.setMousePos 0x05#8 0xFB#8).opSel = none ∧
      frameDispatched (.setMousePos 0x05#8 0xFB#8) State.reset = some (0xAA#8, [0x05#8, 0xFB#8]) := by decide

end Sys2Proof.Machine.Tests
end

section
/-! PROOFS. What a decoder that answers an instruction has found in the bytes, and that the instruction is well formed (R9,
decision D18). -/

namespace Sys2Proof

open Sys2Proof.Machine

/-! ## The request port: when each reader of operands succeeds -/

theorem noOperands_eq_ok {args : Bytes} {i j : Instr} : noOperands args i = .ok j ↔ args = [] ∧ i = j := by
  cases args <;> simp [noOperands]

theorem byteOperand_eq_ok {args : Bytes} {k : Byte → Instr} {j : Instr} :
    byteOperand args k = .ok j ↔ ∃ v, args = [v] ∧ k v = j := by
  match args with
  | [] | [_] | _ :: _ :: _ => simp [byteOperand]

theorem byteAndSequence_eq_ok {args : Bytes} {k : Byte → Bytes → Except Reject Instr} {j : Instr} :
    byteAndSequence args k = .ok j ↔ ∃ v rest, args = v :: rest ∧ k v rest = .ok j := by
  cases args <;> simp [byteAndSequence]

theorem bounded_eq_ok {b : Bytes} {i j : Instr} : bounded b i = .ok j ↔ fitsPlen b = true ∧ i = j := by
  by_cases h : fitsPlen b <;> simp [bounded, h]

/-- The operations whose byte sequence `PLEN_W` bounds are read through `bounded`; no other operand is bounded. -/
theorem decodeRequest_wellFormed {b : Bytes} {i : Instr} (h : decodeRequest b = .ok i) : i.wellFormed = true := by
  cases b with
  | nil => simp [decodeRequest] at h
  | cons op args =>
    unfold decodeRequest at h
    dsimp only at h
    split at h <;>
      simp only [noOperands_eq_ok, byteOperand_eq_ok, byteAndSequence_eq_ok, bounded_eq_ok, Except.ok.injEq,
        reduceCtorEq] at h
    -- the four operands of D18
    case h_7 | h_9 => obtain ⟨_, _, -, hp, rfl⟩ := h; exact hp
    case h_8 | h_20 => obtain ⟨hb, rfl⟩ := h; exact hb
    -- a byte sequence of any length, after at most one byte
    case h_1 => subst h; rfl
    case h_2 | h_12 => obtain ⟨_, _, -, rfl⟩ := h; rfl
    -- one byte
    case h_3 | h_4 | h_5 | h_6 => obtain ⟨_, -, rfl⟩ := h; rfl
    -- no operand
    all_goals obtain ⟨-, rfl⟩ := h; rfl

/-! ## The wire: only frames come out -/

theorem decodeFrame_eq_ok {b : Bytes} {i : Instr} :
    decodeFrame b = .ok i ↔ ∃ t p, parse b = .frame t p ∧ frameInstr t p = some i := by
  unfold decodeFrame
  cases parse b with
  | noFrame reason => simp
  | frame t p => cases hf : frameInstr t p <;> simp [hf]

theorem frameInstr_opSel {t : Byte} {p : Bytes} {i : Instr} (h : frameInstr t p = some i) : i.opSel = none := by
  unfold frameInstr at h
  split at h <;> cases h <;> rfl

theorem decodeFrame_opSel {b : Bytes} {i : Instr} (h : decodeFrame b = .ok i) : i.opSel = none := by
  obtain ⟨t, p, -, hi⟩ := decodeFrame_eq_ok.1 h
  exact frameInstr_opSel hi

theorem Instr.wellFormed_of_opSel_eq_none {i : Instr} (h : i.opSel = none) : i.wellFormed = true := by
  revert h
  cases i <;> simp [Instr.opSel, Instr.wellFormed]

/-- Settles O58: the frame decoder answers frames, whose operands are single bytes, and the request decoder answers a bounded
byte sequence wherever D18 asks for one. -/
theorem decodedInstructionsAreWellFormed : Obligations.DecodedInstructionsAreWellFormed := by
  intro b i h
  unfold decode at h
  split at h
  · exact Instr.wellFormed_of_opSel_eq_none (decodeFrame_opSel h)
  · exact decodeRequest_wellFormed h

end Sys2Proof
end

section
/-! PROOFS. The level state and the result port (10_state.md): which operations write `BTN`, `MOD` and the keys, the state
SESSION_START leaves, and that no operation and no step reads a delivered result. -/

namespace Sys2Proof.Machine

/-! ## The level state (R26, R36, R211) -/

/-- Two register sets that differ in no level register: at most in the accumulators. -/
def Regs.SameLevels (r r' : Regs) : Prop := r'.btn = r.btn ∧ r'.mod = r.mod ∧ r'.keys = r.keys

theorem Regs.SameLevels.refl (r : Regs) : r.SameLevels r := ⟨rfl, rfl, rfl⟩

@[simp] theorem applyMouse_btn (r : Regs) (b x y w h : Byte) : (applyMouse r b x y w h).btn = b := rfl
@[simp] theorem applyMouse_mod (r : Regs) (b x y w h : Byte) : (applyMouse r b x y w h).mod = r.mod := rfl
@[simp] theorem applyMouse_keys (r : Regs) (b x y w h : Byte) : (applyMouse r b x y w h).keys = r.keys := rfl

@[simp] theorem applyKeyboard_btn (r : Regs) (m k0 k1 k2 k3 k4 k5 : Byte) :
    (applyKeyboard r m k0 k1 k2 k3 k4 k5).btn = r.btn := rfl
@[simp] theorem applyKeyboard_mod (r : Regs) (m k0 k1 k2 k3 k4 k5 : Byte) :
    (applyKeyboard r m k0 k1 k2 k3 k4 k5).mod = m := rfl
@[simp] theorem applyKeyboard_keys (r : Regs) (m k0 k1 k2 k3 k4 k5 : Byte) :
    (applyKeyboard r m k0 k1 k2 k3 k4 k5).keys = [k0, k1, k2, k3, k4, k5] := rfl

theorem frameDispatched_of_delivers {i : Instr} (h : Instr.delivers i) (s : State) : frameDispatched i s = none := by
  rcases h with hr | ⟨t, p, rfl⟩ | ⟨b, rfl⟩ | rfl
  · revert hr
    cases i <;> simp [Instr.role, frameDispatched]
  all_goals rfl

theorem frameDispatched_invoke_of_noFrame {s : State} {why : DiscardReason} (h : parse s.rxbuf = .noFrame why) :
    frameDispatched .invoke s = none := by
  simp [frameDispatched, h]

/-- Within a session, an operation either hands a frame to DISPATCH, and that gives the new registers, or hands it none and
keeps the level registers. -/
theorem exec_dispatches_or_keeps_levels {i : Instr} {s s' : State} {r r' : Regs} (h : exec i s = .next s')
    (hs : s.session = .on r) (hs' : s'.session = .on r') :
    (∃ t p, frameDispatched i s = some (t, p) ∧ dispatch t p r = some r') ∨
      (frameDispatched i s = none ∧ r.SameLevels r') := by
  have same_of_on {r₁ r₂ : Regs} (h₁ : s.session = .on r₁) (h₂ : s.session = .on r₂) : r₁ = r₂ :=
    Session.on.inj (h₁.symm.trans h₂)
  cases exec_effect h with
  | dispatched hr hd =>
    cases same_of_on hs hr
    cases hs'
    exact .inl ⟨_, _, rfl, hd⟩
  | received _ hf hr hd =>
    cases same_of_on hs hr
    cases hs'
    exact .inl ⟨_, _, hf, hd⟩
  | delivered _ hi =>
    cases same_of_on hs hs'
    exact .inr ⟨frameDispatched_of_delivers hi s, .refl r⟩
  | discarded _ hp =>
    cases same_of_on hs hs'
    exact .inr ⟨frameDispatched_invoke_of_noFrame hp, .refl r⟩
  | drainedPointer hr | drainedScroll hr =>
    cases same_of_on hs hr
    cases hs'
    exact .inr ⟨rfl, rfl, rfl, rfl⟩
  | peekedButtons | peekedModifier | peekedKeys | sent | sendRejected | transmitted | transmitFailed =>
    cases same_of_on hs hs'
    exact .inr ⟨rfl, .refl r⟩
  | started hoff => cases hoff.symm.trans hs
  | ended => cases hs'

/-- Settles O33: the new registers are those DISPATCH gives, and of its three cases only the mouse frame writes `BTN` and only the
keyboard frame `MOD` and the keys. -/
theorem onlyDispatchedFramesChangeTheLevelState : Obligations.OnlyDispatchedFramesChangeTheLevelState := by
  intro i s s' r r' h hs hs'
  rcases exec_dispatches_or_keeps_levels h hs hs' with ⟨t, p, hf, hd⟩ | ⟨hf, hbtn, hmod, hkeys⟩
  · rw [hf]
    rcases dispatch_cases hd with ⟨ht, rfl⟩ | ⟨b, x, y, w, hh, rfl, rfl, rfl⟩ |
      ⟨m, p1, p2, p3, p4, p5, p6, p7, rfl, rfl, rfl⟩
    · have hca : t ≠ 0xCA#8 := by rintro rfl; simp at ht
      have hda : t ≠ 0xDA#8 := by rintro rfl; simp at ht
      simp [hca, hda]
    · simp +contextual
    · simp +contextual
  · simp [hf, hbtn, hmod, hkeys]

/-! ## The state after SESSION_START (R34, R260) -/

theorem execSessionStart_off {s : State} (h : s.session = .off) :
    execSessionStart s = .next { s with session := .on Regs.zero, result := .none } := by
  simp only [execSessionStart, h]
  rfl

/-- Settles O41: `State.reset` holds `Regs.zero`, which is also what SESSION_START writes. -/
theorem resetIsTheStateAfterSessionStart : Obligations.ResetIsTheStateAfterSessionStart :=
  ⟨rfl, rfl, fun _ h => execSessionStart_off h⟩

/-! ## Nothing reads a result (R28, R248, R185)

Every operation ends in `answer`, which overwrites the result, or in `endInvocation`, which does so too; what it reads before
that is the session and the inbound buffer. -/

theorem answer_deliver (x v : Result) (s : State) : answer x (s.deliver v) = answer x s := rfl

theorem raise_deliver (e : ErrorKind) (v : Result) (s : State) : raise e (s.deliver v) = raise e s := rfl

theorem endInvocation_deliver (r : ParseResult) (v : Result) (s : State) :
    endInvocation r (s.deliver v) = endInvocation r s := rfl

/-- The guard reads the session only. -/
theorem inSession_congr {s t : State} {k l : Regs → Outcome} (hs : s.session = t.session) (hk : ∀ r, k r = l r) :
    inSession s k = inSession t l := by
  rw [funext hk, inSession, inSession, hs]

theorem sendFrame_deliver (b : Bytes) (v : Result) (s : State) : sendFrame b (s.deliver v) = sendFrame b s := by
  rw [sendFrame_eq, sendFrame_eq]
  rfl

theorem receive_deliver (t : Byte) (p : Bytes) (v : Result) (s : State) : receive t p (s.deliver v) = receive t p s := by
  refine inSession_congr rfl fun r => ?_
  cases dispatch t p r <;> rfl

theorem execInvoke_deliver (v : Result) (s : State) : execInvoke (s.deliver v) = execInvoke s := by
  refine inSession_congr rfl fun _ => ?_
  rw [State.deliver_rxbuf]
  cases parse s.rxbuf with
  | frame t p => exact receive_deliver t p v s
  | noFrame why => exact congrArg Host.Outcome.next (endInvocation_deliver _ v s)

theorem exec_deliver (i : Instr) (v : Result) (s : State) : exec i (s.deliver v) = exec i s := by
  cases i
  case setMousePos | setMouseScroll | setMousePress | setMouseRelease | setKeyboardPress | setKeyboardRelease
      | getMouseData | getKeyboardData =>
    simp only [exec, execSetMousePos, execSetMouseScroll, execSetMousePress, execSetMouseRelease, execSetKeyboardPress,
      execSetKeyboardRelease, execGetMouseData, execGetKeyboardData, receive_deliver]
  case xorsum | xorvalid | isvalidtype | wiretypeof | wirecode | validate | parse => exact answer_deliver _ v s
  case lengthof t =>
    unfold exec execLengthof
    cases lengthOf t <;> simp only [answer_deliver, raise_deliver]
  case encode t p =>
    unfold exec execEncode
    cases encodeFrame t p <;> simp only [answer_deliver, raise_deliver]
  case send b => exact inSession_congr rfl fun _ => sendFrame_deliver b v s
  case transmit t p =>
    refine inSession_congr rfl fun _ => ?_
    cases encodeFrame t p <;> simp only [sendFrame_deliver, raise_deliver]
  case invoke => exact execInvoke_deliver v s
  case dispatch t p =>
    refine inSession_congr rfl fun r => ?_
    cases dispatch t p r <;> rfl
  case drainPointer | drainScroll | peekButtons | peekModifier | peekKeys | sessionEnd =>
    exact inSession_congr rfl fun _ => rfl
  case sessionStart =>
    unfold exec execSessionStart
    rw [State.deliver_session]
    cases s.session <;> rfl

theorem withAgenda_deliver (rest : List Turn) (v : Result) (s : State) :
    (s.deliver v).withAgenda rest = (s.withAgenda rest).deliver v := rfl

theorem arrive_deliver (bs : Bytes) (raises : Bool) (v : Result) (s : State) :
    (s.deliver v).arrive bs raises = (s.arrive bs raises).deliver v := rfl

theorem serve_deliver (v : Result) (s : State) : serve (s.deliver v) = serve s :=
  exec_deliver (fetchFrame s.rxbuf) v s

theorem step_deliver (v : Result) (s : State) : step (s.deliver v) = step s := by
  unfold step
  rw [State.deliver_agenda, State.deliver_live, State.deliver_notifications]
  cases s.agenda with
  | nil => simp only [serve_deliver, answer_deliver]
  | cons turn rest =>
    cases turn with
    | arrive b bs raises => simp only [withAgenda_deliver, arrive_deliver, answer_deliver]
    | serve => exact serve_deliver v (s.withAgenda rest)
    | request bytes => cases decodeRequest bytes <;> simp only [withAgenda_deliver, exec_deliver]

/-- Settles O45: the two halves are `exec_deliver` and `step_deliver`. -/
theorem nothingReadsADeliveredResult : Obligations.NothingReadsADeliveredResult :=
  ⟨fun i s v => exec_deliver i v s, fun s v => step_deliver v s⟩

end Sys2Proof.Machine
end

section
/-! PROOFS. Memory (20_memory.md): the ledger of an accumulator, the pure operations, the inbound buffer, the record of frames
handed to the transport, and the steps that run no operation. -/

namespace Sys2Proof.Machine

/-! ## Drains lose nothing (R65, R211, R213)

Every operation keeps the balance of an accumulator: what it returns to a drain plus the new content is the old content plus the
delta it dispatches. A step runs at most one operation, so it keeps the balance too; `n` steps keep it by induction. -/

theorem applyMouse_acc (r : Regs) (b x y w h : Byte) (a : Accumulator) :
    (applyMouse r b x y w h).acc a = r.acc a + deltaOf a 0xCA#8 [b, x, y, w, h] := by
  cases a <;> rfl

theorem applyKeyboard_acc (r : Regs) (m k0 k1 k2 k3 k4 k5 : Byte) (a : Accumulator) :
    (applyKeyboard r m k0 k1 k2 k3 k4 k5).acc a = r.acc a := by
  cases a <;> rfl

/-- Only a `GetMouseData` frame carries deltas. -/
theorem deltaOf_of_ne {t : Byte} (ht : t ≠ 0xCA#8) (a : Accumulator) (p : Bytes) : deltaOf a t p = 0#32 := by
  unfold deltaOf
  split <;> simp [ht]

/-- DISPATCH adds to every accumulator the delta that its frame carries. -/
theorem dispatch_acc {t : Byte} {p : Bytes} {r r' : Regs} (h : dispatch t p r = some r') (a : Accumulator) :
    r'.acc a = r.acc a + deltaOf a t p := by
  rcases dispatch_cases h with ⟨ht, rfl⟩ | ⟨b, x, y, w, hh, rfl, rfl, rfl⟩ |
    ⟨m, p1, p2, p3, p4, p5, p6, p7, rfl, rfl, rfl⟩
  · have hca : t ≠ 0xCA#8 := by rintro rfl; simp at ht
    simp [deltaOf_of_ne hca]
  · exact applyMouse_acc r b x y w hh a
  · simp [applyKeyboard_acc, deltaOf_of_ne]

/-- Only the two drains return the value of an accumulator. -/
theorem returnedFrom_of_ne {i : Instr} (hp : i ≠ .drainPointer) (hw : i ≠ .drainScroll) (a : Accumulator) (v : Result) :
    returnedFrom a i v = 0#32 := by
  unfold returnedFrom
  split
  case h_5 => rfl
  all_goals contradiction

/-- The balance of an operation that hands a frame to DISPATCH. -/
theorem balance_of_frame {i : Instr} {s : State} {t : Byte} {p : Bytes} {r r' : Regs}
    (hf : frameDispatched i s = some (t, p)) (hd : dispatch t p r = some r') (a : Accumulator) (v : Result) :
    returnedFrom a i v + r'.acc a = r.acc a + dispatchedInto a i s := by
  have hp : i ≠ .drainPointer := by rintro rfl; simp [frameDispatched] at hf
  have hw : i ≠ .drainScroll := by rintro rfl; simp [frameDispatched] at hf
  simp [returnedFrom_of_ne hp hw, dispatch_acc hd, dispatchedInto, hf]

/-- The balance of an operation that neither dispatches nor drains and keeps the registers. -/
theorem balance_of_kept {i : Instr} {s : State} (hf : frameDispatched i s = none) (hp : i ≠ .drainPointer)
    (hw : i ≠ .drainScroll) (r : Regs) (a : Accumulator) (v : Result) :
    returnedFrom a i v + r.acc a = r.acc a + dispatchedInto a i s := by
  simp [returnedFrom_of_ne hp hw, dispatchedInto, hf]

theorem State.regs_unique {s : State} {r r' : Regs} (h : s.session = .on r) (h' : s.session = .on r') : r = r' :=
  Session.on.inj (h.symm.trans h')

/-- Within a session every operation keeps the balance of every accumulator. -/
theorem exec_balance {i : Instr} {s s' : State} {r r' : Regs} (h : exec i s = .next s') (hs : s.session = .on r)
    (hs' : s'.session = .on r') (a : Accumulator) :
    returnedFrom a i s'.result + r'.acc a = r.acc a + dispatchedInto a i s := by
  cases exec_effect h with
  | dispatched hr hd =>
    cases State.regs_unique hs hr
    cases hs'
    exact balance_of_frame rfl hd a _
  | received _ hf hr hd =>
    cases State.regs_unique hs hr
    cases hs'
    exact balance_of_frame hf hd a _
  | drainedPointer hr | drainedScroll hr =>
    cases State.regs_unique hs hr
    cases hs'
    cases a <;> simp [returnedFrom, Regs.acc, dispatchedInto, frameDispatched]
  | delivered v hi =>
    cases State.regs_unique hs hs'
    have hp : i ≠ .drainPointer := by rintro rfl; simp [Instr.delivers, Instr.role] at hi
    have hw : i ≠ .drainScroll := by rintro rfl; simp [Instr.delivers, Instr.role] at hi
    exact balance_of_kept (frameDispatched_of_delivers hi s) hp hw r a v
  | discarded _ hp =>
    cases State.regs_unique hs hs'
    exact balance_of_kept (frameDispatched_invoke_of_noFrame hp) nofun nofun r a _
  | peekedButtons | peekedModifier | peekedKeys | sent | sendRejected | transmitted | transmitFailed =>
    cases State.regs_unique hs hs'
    exact balance_of_kept (by rfl) (by simp) (by simp) r a _
  | started hoff => cases hoff.symm.trans hs
  | ended => cases hs'

/-- The delta that the next step dispatches into an accumulator. -/
def stepDispatched (a : Accumulator) (s : State) : Acc := s.nextInstr.elim 0#32 (dispatchedInto a · s)

/-- The value of an accumulator that the step from `s` to `s'` returns to a drain. -/
def stepReturned (a : Accumulator) (s s' : State) : Acc := s.nextInstr.elim 0#32 (returnedFrom a · s'.result)

/-- Within a session every step keeps the balance of every accumulator: it runs one operation or leaves the registers. -/
theorem step_balance {s s' : State} {r r' : Regs} (h : step s = .next s') (hs : s.session = .on r)
    (hs' : s'.session = .on r') (a : Accumulator) :
    stepReturned a s s' + r'.acc a = r.acc a + stepDispatched a s := by
  cases step_effect h with
  | ran rest hi he =>
    simp only [stepReturned, stepDispatched, hi, Option.elim_some]
    exact exec_balance he hs hs' a
  | arrived bs raises rest hi =>
    cases State.regs_unique hs hs'
    simp [stepReturned, stepDispatched, hi]
  | idle hi =>
    cases State.regs_unique hs hs'
    simp [stepReturned, stepDispatched, hi]

/-- The ledger of `n + 1` steps: a step that stays in the session, and the ledger of the `n` steps behind it. -/
theorem ledger_succ {a : Accumulator} {n : Nat} {s last : State} {dispatched returned : Acc}
    (h : ledger a (n + 1) s = some (last, dispatched, returned)) :
    ∃ s' r' d v, step s = .next s' ∧ s'.session = .on r' ∧ ledger a n s' = some (last, d, v) ∧
      dispatched = stepDispatched a s + d ∧ returned = stepReturned a s s' + v := by
  unfold ledger at h
  cases hstep : step s with
  | fault | refused => simp [hstep] at h
  | next s' =>
    simp only [hstep, Option.ite_none_right_eq_some] at h
    obtain ⟨hlive, h⟩ := h
    obtain ⟨r', hr'⟩ := (State.live_iff s').1 hlive
    rcases hrest : ledger a n s' with _ | ⟨last', d, v⟩
    · simp [hrest] at h
    · refine ⟨s', r', d, v, rfl, hr', ?_⟩
      cases hi : s.nextInstr <;> simp_all [stepDispatched, stepReturned]

/-- Settles O34, by induction on the number of steps: the first keeps the balance (`step_balance`), and so do those behind it. -/
theorem drainsLoseNothing : Obligations.DrainsLoseNothing := by
  intro a n
  induction n with
  | zero =>
    intro s last r dispatched returned hs h
    simp only [ledger, Option.some.injEq, Prod.mk.injEq] at h
    obtain ⟨rfl, rfl, rfl⟩ := h
    exact ⟨r, hs, BitVec.add_comm _ _⟩
  | succ n ih =>
    intro s last r dispatched returned hs h
    obtain ⟨s', r1, d, v, hstep, hs', hrest, rfl, rfl⟩ := ledger_succ h
    obtain ⟨r', hlast, hbalance⟩ := ih s' last r1 d v hs' hrest
    refine ⟨r', hlast, ?_⟩
    calc stepReturned a s s' + v + r'.acc a
        = stepReturned a s s' + (v + r'.acc a) := BitVec.add_assoc _ _ _
      _ = stepReturned a s s' + (r1.acc a + d) := by rw [hbalance]
      _ = stepReturned a s s' + r1.acc a + d := (BitVec.add_assoc _ _ _).symm
      _ = r.acc a + stepDispatched a s + d := by rw [step_balance hstep hs hs' a]
      _ = r.acc a + (stepDispatched a s + d) := BitVec.add_assoc _ _ _

/-! ## The pure operations (R66) -/

/-- The lookups and checksums, ENCODE and VALIDATE answer the same in every state. -/
theorem exec_pure {i : Instr} (hi : i.role = .anyone ∨ (∃ t p, i = .encode t p) ∨ (∃ b, i = .validate b)) :
    ∃ v, ∀ s : State, exec i s = answer v s := by
  rcases hi with hi | ⟨t, p, rfl⟩ | ⟨b, rfl⟩
  · cases i with
    | xorsum | xorvalid | isvalidtype | wiretypeof | wirecode => exact ⟨_, fun _ => rfl⟩
    | lengthof t =>
      cases h : lengthOf t with
      | ok l => exact ⟨.length l, fun s => by simp only [exec, execLengthof, h]⟩
      | error e => exact ⟨.err e, fun s => by simp only [exec, execLengthof, h, raise]⟩
    | _ => simp [Instr.role] at hi
  · cases h : encodeFrame t p with
    | ok f => exact ⟨.bytes f, fun s => by simp only [exec, execEncode, h]⟩
    | error e => exact ⟨.err e, fun s => by simp only [exec, execEncode, h, raise]⟩
  · exact ⟨_, fun _ => rfl⟩

/-- Settles O44: a pure operation only delivers (`exec_pure`), and no operation reads what was delivered (`exec_deliver`). -/
theorem pureOperationsCommuteWithEverything : Obligations.PureOperationsCommuteWithEverything := by
  intro i hi
  obtain ⟨v, hv⟩ := exec_pure hi
  exact ⟨v, hv, fun j s t h => ⟨(exec_deliver j v s).trans h, hv t⟩⟩

/-! ## The inbound buffer (R51, R53, R70) -/

/-- An instruction that only delivers is no invocation. -/
theorem Instr.delivers.not_invocation {i : Instr} (h : Instr.delivers i) : ¬ (i = .invoke ∨ i.opSel = none) := by
  rcases h with hr | ⟨t, p, rfl⟩ | ⟨b, rfl⟩ | rfl
  · revert hr
    cases i <;> simp [Instr.role, Instr.opSel]
  all_goals simp [Instr.opSel]

/-- Settles O46: of all effects only the two ends of an invocation, with a frame and without one, touch the buffer. -/
theorem noOperationWritesTheInboundBuffer : Obligations.NoOperationWritesTheInboundBuffer := by
  intro i s s' h
  cases exec_effect h with
  | received hi => exact (if_pos hi).symm
  | discarded => exact (if_pos (.inl rfl)).symm
  | delivered v hi => exact (if_neg hi.not_invocation).symm
  | _ => rfl

/-! ## The record of frames (R54, R68, R151) -/

/-- The spec's four checks, on bytes written as head and checksum. -/
theorem specValid_append (v n t c : Byte) (p : Bytes) :
    specValid ([v, n, t] ++ p ++ [c]) ↔
      v = 0xAB#8 ∧ t ∈ specCodes ∧ 1 ≤ p.length ∧ p.length ≤ 8 ∧ xorOf (t :: p) = c := by
  have hlen : ([v, n, t] ++ p ++ [c]).length = p.length + 4 := by simp
  have hbounds : 5 ≤ p.length + 4 ∧ p.length + 4 ≤ 12 ↔ 1 ≤ p.length ∧ p.length ≤ 8 := by omega
  have hchecked : ([v, n, t] ++ p ++ [c]).drop 2 = (t :: p) ++ [c] := by simp
  rw [specValid, hlen, hchecked, List.dropLast_concat, List.getLast?_concat, ← and_assoc, hbounds]
  simp only [List.cons_append, List.getElem?_cons_zero, List.getElem?_cons_succ, Option.some.injEq, exists_eq_right,
    eq_comm (a := c), eq_comm (a := t)]
  tauto

/-- Bytes enough for a head and a checksum are one. -/
theorem exists_head_payload_checksum {b : Bytes} (h : 4 ≤ b.length) : ∃ v n t p c, b = [v, n, t] ++ p ++ [c] := by
  match b, h with
  | v :: n :: t :: u :: rest, _ =>
    exact ⟨v, n, t, (u :: rest).dropLast, (u :: rest).getLast (by simp), by simp [List.dropLast_append_getLast]⟩

theorem validate_of_short {b : Bytes} (h : b.length < 5) : validate b = false := by
  simp [validate, Config.minFrameLen, h]

/-- The validator is the conjunction of the spec's four checks. -/
theorem validate_iff_specValid (b : Bytes) : validate b = true ↔ specValid b := by
  by_cases h : b.length < 5
  · have hspec : ¬ specValid b := fun hb => absurd hb.1 (by omega)
    simp [validate_of_short h, hspec]
  · obtain ⟨v, n, t, p, c, rfl⟩ := exists_head_payload_checksum (b := b) (by omega)
    rw [validate_append, specValid_append]

/-- Settles O47: only SEND and TRANSMIT append, and each a frame that the validator accepts. -/
theorem transportGetsWholeValidFramesInOrder : Obligations.TransportGetsWholeValidFramesInOrder := by
  intro i s s' h
  cases exec_effect h with
  | sent _ hv => exact .inr ⟨_, rfl, (validate_iff_specValid _).1 hv, rfl⟩
  | transmitted _ hl hp => exact .inr ⟨_, rfl, (validate_iff_specValid _).1 (validate_specFrame hl hp), rfl⟩
  | _ => exact .inl rfl

/-! ## The steps that run no operation (R51, R237, R249) -/

theorem step_of_arrive {s : State} {b : Byte} {bs : Bytes} {raises : Bool} {rest : List Turn}
    (h : s.agenda = .arrive b bs raises :: rest) :
    step s = answer .none ((s.withAgenda rest).arrive (b :: bs) raises) := by
  simp only [step, h]

theorem step_of_idle {s : State} (h : s.agenda = []) (hidle : s.notifications = 0 ∨ s.live = false) :
    step s = answer .none s := by
  have hserved : (s.live && decide (0 < s.notifications)) = false := by rcases hidle with h0 | h0 <;> simp [h0]
  simp [step, h, hserved]

/-- Settles O54: a turn of the transport is `arrive`, and an idle step only answers. -/
theorem arriveAppendsAndIdleHolds : Obligations.ArriveAppendsAndIdleHolds := by
  refine ⟨fun s b bs raises rest h => ?_, fun s h hidle => step_of_idle h hidle⟩
  rw [step_of_arrive h, arrive_eq]
  rfl

end Sys2Proof.Machine
end

section
/-! PROOFS. Encodings (30_encoding.md): the frames a parse yields, and that the two decoders and the encoder are inverse to each
other. -/

namespace Sys2Proof

open Sys2Proof.Machine

/-! ## The registry's two lookups (R133, decision D3) -/

theorem wireTypeOf_wireCode (T : FrameType) : wireTypeOf (wireCode T) = T := by
  cases T <;> rfl

theorem wireCode_wireTypeOf {t : Byte} (h : wireTypeOf t ≠ .unknown) : wireCode (wireTypeOf t) = t := by
  rcases code_cases t with ht | ht | ht | ht | ht | ht | ht | ht | ht
  case inr.inr.inr.inr.inr.inr.inr.inr => exact absurd (wireTypeOf_unregistered ht) h
  all_goals subst ht; rfl

theorem eq_wireCode {t : Byte} {T : FrameType} (h : wireTypeOf t = T) (hT : T ≠ .unknown) : t = wireCode T := by
  rw [← h, wireCode_wireTypeOf (h ▸ hT)]

/-! ## The wire: a parse yields a frame exactly from the frame's bytes and a tail (R96, R184) -/

theorem parse_eq_frame_iff {b : Bytes} {t : Byte} {p : Bytes} :
    parse b = .frame t p ↔ (t, p.length + 4) ∈ specTable ∧ ∃ x, b = specFrame t (p.length + 4) p ++ x := by
  rw [parse_frame]
  refine and_congr_right fun hrow => ?_
  have hsmall : p.length + 2 < 256 := by have := table_length_bounds hrow; omega
  constructor
  · rintro ⟨n, x, hn, rfl⟩
    have hn' : n = BitVec.ofNat 8 (p.length + 2) := by rw [← hn, BitVec.ofNat_toNat, BitVec.setWidth_eq]
    exact ⟨x, by simp [specFrame, hn']⟩
  · rintro ⟨x, rfl⟩
    exact ⟨BitVec.ofNat 8 (p.length + 2), x, by simp [Nat.mod_eq_of_lt hsmall], by simp [specFrame]⟩

/-- Settles O24: the bytes a frame is parsed from are the frame of its row and a tail, so the row gives the length byte. -/
theorem onlyLegalPairsYieldFrames : Obligations.OnlyLegalPairsYieldFrames := by
  intro b t p h
  obtain ⟨hrow, x, rfl⟩ := parse_eq_frame_iff.1 h
  have hbounds := table_length_bounds hrow
  refine ⟨?_, rfl, hrow, rfl⟩
  rw [List.length_append, specFrame_length hrow rfl]
  omega

/-! ## The wire: the layouts of R85 to R92 are the frames of the registry -/

/-- A type and a payload that make an instruction are a row of the registry, and the instruction's layout is the row's frame. -/
theorem encode_of_frameInstr {t : Byte} {p : Bytes} {i : Instr} (h : frameInstr t p = some i) :
    (t, p.length + 4) ∈ specTable ∧ encode i = specFrame t (p.length + 4) p := by
  unfold frameInstr at h
  split at h
  case h_9 => cases h
  all_goals
    rename_i ht
    obtain rfl := eq_wireCode ht (by decide)
    cases h
    exact ⟨by simp [mem_specTable, wireCode, registry], rfl⟩

theorem exists_frameInstr {i : Instr} (h : i.opSel = none) : ∃ t p, frameInstr t p = some i := by
  cases i with
  | setMousePos x y => exact ⟨0xAA#8, [x, y], rfl⟩
  | setMouseScroll v => exact ⟨0xAB#8, [v], rfl⟩
  | setMousePress b => exact ⟨0xAC#8, [b], rfl⟩
  | setMouseRelease b => exact ⟨0xAD#8, [b], rfl⟩
  | setKeyboardPress k0 k1 => exact ⟨0xBB#8, [k0, k1], rfl⟩
  | setKeyboardRelease k0 k1 => exact ⟨0xBC#8, [k0, k1], rfl⟩
  | getMouseData b x y w z => exact ⟨0xCA#8, [b, x, y, w, z], rfl⟩
  | getKeyboardData m p1 p2 p3 p4 p5 p6 p7 => exact ⟨0xDA#8, [m, p1, p2, p3, p4, p5, p6, p7], rfl⟩
  | _ => cases h

/-- The frame decoder answers an instruction exactly on the instruction's layout and a tail. -/
theorem decodeFrame_eq_ok_iff_encode {b : Bytes} {i : Instr} :
    decodeFrame b = .ok i ↔ i.opSel = none ∧ ∃ x, b = encode i ++ x := by
  constructor
  · intro h
    obtain ⟨t, p, hparse, hi⟩ := decodeFrame_eq_ok.1 h
    rw [(encode_of_frameInstr hi).2]
    exact ⟨frameInstr_opSel hi, (parse_eq_frame_iff.1 hparse).2⟩
  · rintro ⟨hop, x, rfl⟩
    obtain ⟨t, p, hi⟩ := exists_frameInstr hop
    obtain ⟨hrow, henc⟩ := encode_of_frameInstr hi
    exact decodeFrame_eq_ok.2 ⟨t, p, parse_eq_frame_iff.2 ⟨hrow, x, by rw [henc]⟩, hi⟩

theorem decodeFrame_encode_append {i : Instr} (h : i.opSel = none) (x : Bytes) : decodeFrame (encode i ++ x) = .ok i :=
  decodeFrame_eq_ok_iff_encode.2 ⟨h, x, rfl⟩

theorem encode_head_of_frame {i : Instr} (h : i.opSel = none) : (encode i).head? = some Config.start := by
  obtain ⟨t, p, hi⟩ := exists_frameInstr h
  rw [(encode_of_frameInstr hi).2]
  rfl

/-! ## The request port (R104, log entry 1) -/

/-- The start marker is no label, so the two decoders never compete for the same bytes. -/
theorem zext8_ne_start (op : BitVec 5) : zext8 op ≠ Config.start := by
  revert op
  decide

theorem decode_request (op : BitVec 5) (args : Bytes) : decode (request op args) = decodeRequest (request op args) :=
  if_neg fun h => zext8_ne_start op (Option.some.inj h)

theorem encode_of_opSel {i : Instr} {op : BitVec 5} (h : i.opSel = some op) : ∃ args, encode i = request op args := by
  cases i <;> cases h <;> exact ⟨_, rfl⟩

/-- D18's bound is the only thing the port checks about the operands of an encoded request. -/
theorem decodeRequest_encode {i : Instr} {op : BitVec 5} (h : i.opSel = some op) (hwf : i.wellFormed = true) :
    decodeRequest (encode i) = .ok i := by
  cases i with
  | encode | validate | transmit | send => exact bounded_eq_ok.2 ⟨hwf, rfl⟩
  | wirecode T => exact congrArg (fun U => Except.ok (Instr.wirecode U)) (wireTypeOf_wireCode T)
  | setMousePos | setMouseScroll | setMousePress | setMouseRelease | setKeyboardPress | setKeyboardRelease
  | getMouseData | getKeyboardData => cases h
  | _ => rfl

theorem decode_encode {i : Instr} (h : i.wellFormed = true) : decode (encode i) = .ok i := by
  cases hop : i.opSel with
  | none =>
    have hframe := decodeFrame_encode_append hop []
    rw [List.append_nil] at hframe
    rw [decode, if_pos (encode_head_of_frame hop), hframe]
  | some op =>
    obtain ⟨args, henc⟩ := encode_of_opSel hop
    rw [henc, decode_request, ← henc, decodeRequest_encode hop h]

/-- Settles O56: a frame's layout starts with the start marker and an operation's request with its label, so each decoder gets
the bytes that the encoder made for it. -/
theorem decodeOfEncodeIsTheInstruction : Obligations.DecodeOfEncodeIsTheInstruction :=
  ⟨fun _ => decode_encode, fun _ x hop => decodeFrame_encode_append hop x⟩

theorem request_eq_cons {op : Byte} {k : BitVec 5} (h : u8 op = k.toNat) (args : Bytes) : request k args = op :: args := by
  have hop : zext8 k = op := BitVec.eq_of_toNat_eq (by
    rw [← u8, ← u8, h]
    exact BitVec.toNat_setWidth_of_le (by decide))
  rw [request, hop]

/-- The request port reads back the label and the operands it was given; WIRECODE's operand alone it does not keep, but the type
it denotes. -/
theorem encode_of_decodeRequest {b : Bytes} {i : Instr} (h : decodeRequest b = .ok i) (hi : ∀ T, i ≠ .wirecode T) :
    encode i = b := by
  cases b with
  | nil => simp [decodeRequest] at h
  | cons op args =>
    unfold decodeRequest at h
    dsimp only at h
    split at h <;>
      simp only [noOperands_eq_ok, byteOperand_eq_ok, byteAndSequence_eq_ok, bounded_eq_ok, Except.ok.injEq,
        reduceCtorEq] at h
    case h_6 => obtain ⟨v, -, rfl⟩ := h; exact absurd rfl (hi _)
    all_goals rename_i hop
    -- the operands are one byte sequence
    case h_1 => subst h; exact request_eq_cons hop _
    case h_8 | h_20 => obtain ⟨-, rfl⟩ := h; exact request_eq_cons hop _
    -- a byte and a byte sequence
    case h_2 | h_12 => obtain ⟨_, _, rfl, rfl⟩ := h; exact request_eq_cons hop _
    case h_7 | h_9 => obtain ⟨_, _, rfl, -, rfl⟩ := h; exact request_eq_cons hop _
    -- one byte
    case h_3 | h_4 | h_5 => obtain ⟨_, rfl, rfl⟩ := h; exact request_eq_cons hop _
    -- no operand
    all_goals obtain ⟨rfl, rfl⟩ := h; exact request_eq_cons hop _

/-- Settles O57: a frame is decoded from its layout and a tail only, and a request from its label and operands. -/
theorem decodedBytesAreTheEncoding : Obligations.DecodedBytesAreTheEncoding :=
  ⟨fun _ _ h => (decodeFrame_eq_ok_iff_encode.1 h).2, fun _ _ h hi => encode_of_decodeRequest h hi⟩

theorem decode_of_encode_eq {i : Instr} {b : Bytes} (hb : encode i = b) (h : i.wellFormed = true) : decode b = .ok i :=
  hb ▸ decode_encode h

/-- Settles O60: the written-out words are what the encoder gives, byte for byte, and each instruction is well formed. -/
theorem writtenOutWordsDecode : Obligations.WrittenOutWordsDecode :=
  ⟨decode_of_encode_eq rfl rfl, decode_of_encode_eq rfl rfl, decode_of_encode_eq rfl rfl, decode_of_encode_eq rfl rfl,
    decode_of_encode_eq rfl rfl, decode_of_encode_eq rfl rfl⟩

end Sys2Proof
end

section
/-! PROOFS. The checksum unit (40_checksum.md): the parity of each bit of a checksum, the comparison, and the algebraic laws. -/

namespace Sys2Proof.Machine

theorem exec_xorsum (b : Bytes) (s : State) : exec (.xorsum b) s = .next { s with result := .byte (xorOf b) } := rfl

theorem exec_xorvalid (b : Bytes) (e : Byte) (s : State) :
    exec (.xorvalid b e) s = .next { s with result := .bit (xorOf b == e) } := rfl

/-! ## Bits and the comparison (R120, R121) -/

/-- A byte flips bit `k` of the checksum, and the parity of the count, exactly when it has the bit. -/
theorem xorOf_getLsbD (b : Bytes) (k : Nat) : (xorOf b).getLsbD k = (b.countP (fun v => v.getLsbD k) % 2 == 1) := by
  induction b with
  | nil => simp
  | cons v b ih =>
    rw [xorOf_cons, BitVec.getLsbD_xor, ih, List.countP_cons]
    cases v.getLsbD k with
    | false => simp
    | true => rcases Nat.mod_two_eq_zero_or_one (b.countP fun v => v.getLsbD k) with h | h <;> simp [Nat.add_mod, h]

/-- Settles O1: the result is the fold by definition, and its bits are those of `xorOf_getLsbD`. -/
theorem xorsumIsTheXorReduction : Obligations.XorsumIsTheXorReduction :=
  fun b s => ⟨xorOf b, exec_xorsum b s, rfl, fun k _ => xorOf_getLsbD b k⟩

theorem xorOf_concat (b : Bytes) (e : Byte) : xorOf (b ++ [e]) = xorOf b ^^^ e := by
  simp [xorOf_append]

/-- Settles O2: the byte appended makes the checksum 0 exactly when it is the checksum. -/
theorem xorvalidComparesWithXorsum : Obligations.XorvalidComparesWithXorsum := by
  intro b e s
  refine ⟨exec_xorvalid b e s, ?_⟩
  rw [xorOf_concat, BitVec.xor_eq_zero_iff, beq_iff_eq]

/-! ## The algebraic laws (R122) -/

theorem xorOf_perm {a b : Bytes} (h : a.Perm b) : xorOf a = xorOf b := h.foldl_eq 0x00#8

/-- A byte contributes the same wherever it stands. -/
theorem xorOf_middle (a : Bytes) (v : Byte) (b : Bytes) : xorOf (a ++ v :: b) = v ^^^ xorOf (a ++ b) := by
  rw [xorOf_perm List.perm_middle, xorOf_cons]

/-- The bytes around place `i` contribute the same before and after the write, and cancel. -/
theorem xorOf_set_eq_iff {b : Bytes} {i : Nat} (h : i < b.length) (v : Byte) :
    xorOf (b.set i v) = xorOf b ↔ v = b[i] := by
  have hb : xorOf b = b[i] ^^^ xorOf (b.take i ++ b.drop (i + 1)) := by
    rw [← xorOf_middle, ← List.drop_eq_getElem_cons h, List.take_append_drop]
  rw [hb, List.set_eq_take_append_cons_drop, if_pos h, xorOf_middle, BitVec.xor_left_inj]

theorem xorOf_two_middle (a b c : Bytes) (u v : Byte) :
    xorOf (a ++ u :: b ++ v :: c) = v ^^^ (u ^^^ xorOf (a ++ b ++ c)) := by
  rw [xorOf_middle, List.append_assoc, List.cons_append, xorOf_middle, List.append_assoc]

/-- The two differences meet and cancel. -/
theorem xorOf_same_difference (a b c : Bytes) (u v d : Byte) :
    xorOf (a ++ (u ^^^ d) :: b ++ (v ^^^ d) :: c) = xorOf (a ++ u :: b ++ v :: c) := by
  rw [xorOf_two_middle, xorOf_two_middle]
  calc v ^^^ d ^^^ (u ^^^ d ^^^ xorOf (a ++ b ++ c))
      = v ^^^ (u ^^^ xorOf (a ++ b ++ c)) ^^^ (d ^^^ d) := by ac_rfl
    _ = v ^^^ (u ^^^ xorOf (a ++ b ++ c)) := by rw [BitVec.xor_self, BitVec.xor_zero]

theorem xorOf_replicate_zero (n : Nat) : xorOf (List.replicate n 0x00#8) = 0x00#8 := by
  induction n with
  | zero => rfl
  | succ n ih => rw [List.replicate_succ, xorOf_cons, ih, BitVec.xor_zero]

theorem xorOf_append_zeros (b : Bytes) (n : Nat) : xorOf (b ++ List.replicate n 0x00#8) = xorOf b := by
  rw [xorOf_append, xorOf_replicate_zero, BitVec.xor_zero]

/-- Settles O3: the five laws, each a lemma above; a changed byte is one that is not the byte that stood there. -/
theorem xorsumAlgebraicLaws : Obligations.XorsumAlgebraicLaws := by
  refine ⟨fun _ _ => xorOf_perm, xorOf_append, fun b i v hi hv heq => ?_, xorOf_same_difference, xorOf_append_zeros⟩
  have hsame : v = b[i] := (xorOf_set_eq_iff hi v).1 heq
  exact hv (by rw [hsame, List.getElem?_eq_getElem hi])

end Sys2Proof.Machine
end

section
/-! PROOFS. The registry (41_registry.md): what LENGTHOF, ISVALIDTYPE, WIRETYPEOF and WIRECODE answer for a row of the spec's
tables and for an unregistered byte, and where the two lookups of a type undo each other. -/

namespace Sys2Proof.Machine

/-! ## What the four lookups answer -/

theorem exec_lengthof_of_mem {t : Byte} {l : Nat} (h : (t, l) ∈ specTable) (s : State) :
    exec (.lengthof t) s = .next { s with result := .length l } := by
  simp only [exec, execLengthof, lengthOf_of_mem h, answer_eq]

theorem exec_lengthof_unregistered {t : Byte} (h : t ∉ specCodes) (s : State) :
    exec (.lengthof t) s = .next { s with result := .err .invalidFrameType } := by
  simp only [exec, execLengthof, lengthOf_unregistered h, raise_eq]

theorem exec_isvalidtype (t : Byte) (s : State) :
    exec (.isvalidtype t) s = .next { s with result := .bit (isValidType t) } := rfl

theorem exec_wiretypeof (v : Byte) (s : State) :
    exec (.wiretypeof v) s = .next { s with result := .frameType (wireTypeOf v) } := rfl

theorem exec_wirecode (T : FrameType) (s : State) :
    exec (.wirecode T) s = .next { s with result := .byte (wireCode T) } := rfl

/-! ## Types and codes (R133) -/

theorem wireCode_unknown : wireCode .unknown = 0xFF#8 := rfl

/-- The sentinel has no row in the table of names; every other type has one, with its code. -/
theorem mem_specNames {T : FrameType} {v : Byte} : (T, v) ∈ specNames ↔ T ≠ .unknown ∧ v = wireCode T := by
  cases T <;> simp [specNames, wireCode, registry]

/-- Each of the eight codes names a type. -/
theorem wireTypeOf_ne_unknown : ∀ v ∈ specCodes, wireTypeOf v ≠ .unknown := by decide

/-- A registered code is found again; an unregistered byte becomes the sentinel, whose code is `0xFF`. -/
theorem wireCode_wireTypeOf_iff (v : Byte) : wireCode (wireTypeOf v) = v ↔ v ∈ specCodes ∨ v = 0xFF#8 := by
  by_cases hv : v ∈ specCodes
  · simp only [wireCode_wireTypeOf (wireTypeOf_ne_unknown v hv), hv, true_or]
  · simp only [wireTypeOf_unregistered hv, wireCode_unknown, hv, false_or, eq_comm]

/-- Settles O6: a row of the table of names is a type with its code, so WIRECODE answers the code, and WIRETYPEOF the type since
it undoes WIRECODE. -/
theorem wireTypesAndCodesFollowTheTables : Obligations.WireTypesAndCodesFollowTheTables := by
  refine fun s => ⟨fun T v hrow => ?_, exec_wirecode .unknown s, fun v hv => ?_, wireTypeOf_wireCode, wireCode_wireTypeOf_iff⟩
  · obtain ⟨-, rfl⟩ := mem_specNames.1 hrow
    refine ⟨exec_wirecode T s, ?_⟩
    rw [exec_wiretypeof, wireTypeOf_wireCode]
  · rw [exec_wiretypeof, wireTypeOf_unregistered hv]

/-! ## Lengths and membership (R132, R134) -/

/-- Settles O4: a row's length, or the error for a byte without a row. -/
theorem lengthofReadsTheRegistry : Obligations.LengthofReadsTheRegistry :=
  fun _ s => ⟨fun _ hrow => exec_lengthof_of_mem hrow s, fun ht => exec_lengthof_unregistered ht s⟩

theorem isValidType_eq_decide (t : Byte) : isValidType t = decide (t ∈ specCodes) :=
  Bool.eq_iff_iff.2 ((isValidType_iff t).trans decide_eq_true_iff.symm)

/-- LENGTHOF answers a length for a registered code only: for any other byte the result is an error. -/
theorem exec_lengthof_answers_length_iff (t : Byte) (s : State) :
    (∃ l, exec (.lengthof t) s = .next { s with result := .length l }) ↔ t ∈ specCodes := by
  refine ⟨fun ⟨l, hl⟩ => ?_, fun ht => ?_⟩
  · by_contra ht
    rw [exec_lengthof_unregistered ht] at hl
    simp at hl
  · obtain ⟨l, hrow, -, -⟩ := exists_length ht
    exact ⟨l, exec_lengthof_of_mem hrow s⟩

/-- Settles O5: the bit is membership in the eight codes, and so is that LENGTHOF answers a length. -/
theorem isvalidtypeTestsMembership : Obligations.IsvalidtypeTestsMembership := by
  refine fun t s => ⟨?_, (exec_lengthof_answers_length_iff t s).symm⟩
  rw [exec_isvalidtype, isValidType_eq_decide]

end Sys2Proof.Machine
end

section
/-! PROOFS. The encoder (42_encoder.md): what ENCODE, VALIDATE, SEND and TRANSMIT do on a row of the registry and off it, and
the frames of R143 to R150 byte by byte. -/

namespace Sys2Proof.Machine

/-! ## ENCODE (R140, R141) -/

theorem encodeFrame_right_length {t : Byte} {l : Nat} {p : Bytes} (hrow : (t, l) ∈ specTable) (hp : p.length = l - 4) :
    encodeFrame t p = .ok (specFrame t l p) := by
  rw [encodeFrame_of_mem hrow, if_pos hp]

theorem encodeFrame_wrong_length {t : Byte} {l : Nat} {p : Bytes} (hrow : (t, l) ∈ specTable) (hp : p.length ≠ l - 4) :
    encodeFrame t p = .error .payloadLengthMismatch := by
  rw [encodeFrame_of_mem hrow, if_neg hp]

theorem exec_encode_of_ok {t : Byte} {p f : Bytes} (h : encodeFrame t p = .ok f) (s : State) :
    exec (.encode t p) s = .next { s with result := .bytes f } := by
  simp only [exec, execEncode, h, answer_eq]

theorem exec_encode_of_error {t : Byte} {p : Bytes} {e : ErrorKind} (h : encodeFrame t p = .error e) (s : State) :
    exec (.encode t p) s = .next { s with result := .err e } := by
  simp only [exec, execEncode, h, raise_eq]

theorem exec_encode_wrong_length {t : Byte} {l : Nat} (hrow : (t, l) ∈ specTable) {p : Bytes} (hp : p.length ≠ l - 4)
    (s : State) : exec (.encode t p) s = .next { s with result := .err .payloadLengthMismatch } :=
  exec_encode_of_error (encodeFrame_wrong_length hrow hp) s

/-- Settles O7: the three clauses are the three answers of `encodeFrame`, delivered. -/
theorem encodeBuildsTheFrame : Obligations.EncodeBuildsTheFrame := fun _ p s =>
  ⟨fun ht => exec_encode_of_error (encodeFrame_unregistered ht p) s,
    fun _ hrow hp => exec_encode_wrong_length hrow hp s,
    fun _ hrow hp => ⟨exec_encode_of_ok (encodeFrame_right_length hrow hp) s, specFrame_length hrow hp⟩⟩

/-- ENCODE answers bytes only where the encoder built a frame. -/
theorem encodeFrame_of_exec_encode {t : Byte} {p f : Bytes} {s s' : State} (h : exec (.encode t p) s = .next s')
    (hf : s'.result = .bytes f) : encodeFrame t p = .ok f := by
  cases he : encodeFrame t p with
  | ok g =>
    rw [exec_encode_of_ok he] at h
    cases h
    cases hf
    rfl
  | error e =>
    rw [exec_encode_of_error he] at h
    cases h
    cases hf

/-! ## VALIDATE (R151, R152, R153) -/

theorem exec_validate (b : Bytes) (s : State) : exec (.validate b) s = .next { s with result := .bit (validate b) } := rfl

theorem exec_validate_of_valid {b : Bytes} (h : validate b = true) (s : State) :
    exec (.validate b) s = .next { s with result := .bit true } := by
  rw [exec_validate, h]

/-- Settles O12: the bit is `validate b`, the conjunction of the spec's checks. -/
theorem validateIsTheFourChecks : Obligations.ValidateIsTheFourChecks :=
  fun b s => ⟨validate b, exec_validate b s, validate_iff_specValid b⟩

/-- On bytes written as head and checksum, the four checks do not name the length byte. -/
theorem validate_set_lengthByte (b : Bytes) (n : Byte) : validate (b.set 1 n) = validate b := by
  by_cases h : b.length < 5
  · rw [validate_of_short h, validate_of_short (by rwa [List.length_set])]
  · obtain ⟨v, m, t, p, c, rfl⟩ := exists_head_payload_checksum (b := b) (by omega)
    have hset : ([v, m, t] ++ p ++ [c]).set 1 n = [v, n, t] ++ p ++ [c] := rfl
    rw [hset, Bool.eq_iff_iff, validate_append, validate_append]

/-- Settles O13: the four checks name neither byte 1 nor the length of the type. -/
theorem validateIgnoresTheLengthByteAndTheTypesLength : Obligations.ValidateIgnoresTheLengthByteAndTheTypesLength := by
  refine ⟨fun b n s => ?_, fun n t p s ht h1 h8 => ?_⟩
  · rw [exec_validate, exec_validate, validate_set_lengthByte]
  · exact exec_validate_of_valid ((validate_append _ n t _ p).2 ⟨rfl, ht, h1, h8, rfl⟩) s

/-- What the encoder builds passes the validator. -/
theorem validate_of_encodeFrame {t : Byte} {p f : Bytes} (h : encodeFrame t p = .ok f) : validate f = true := by
  rcases encodeFrame_cases t p with ⟨l, hrow, hp, e⟩ | ⟨l, -, -, e⟩ | ⟨-, e⟩ <;> cases e.symm.trans h
  exact validate_specFrame hrow hp

/-- Settles O14: bytes that ENCODE answers are a frame the encoder built. -/
theorem encodedFramesPassTheValidator : Obligations.EncodedFramesPassTheValidator :=
  fun _ _ _ _ _ h hf => exec_validate_of_valid (validate_of_encodeFrame (encodeFrame_of_exec_encode h hf))

/-! ## SEND and TRANSMIT (R154, R155) -/

theorem sendFrame_of_valid {b : Bytes} (h : validate b = true) (s : State) :
    sendFrame b s = .next { s with txlog := s.txlog ++ [b], result := .ok } := by
  rw [sendFrame_eq, if_pos h]

theorem sendFrame_of_invalid {b : Bytes} (h : ¬ validate b = true) (s : State) :
    sendFrame b s = .next { s with result := .err .invalidFrame } := by
  rw [sendFrame_eq, if_neg h]

theorem exec_send_on {s : State} {r : Regs} (hs : s.session = .on r) (b : Bytes) :
    exec (.send b) s = sendFrame b s :=
  inSession_on hs _

/-- Settles O15: the sender's validator is the conjunction of the spec's checks. -/
theorem sendWritesOnlyWhatPasses : Obligations.SendWritesOnlyWhatPasses := by
  intro b s r hs
  rw [exec_send_on hs, ← validate_iff_specValid]
  exact ⟨fun hb => sendFrame_of_valid hb s, fun hb => sendFrame_of_invalid hb s⟩

/-- The validator in the outgoing flow passes what the encoder built, so the frame is written. -/
theorem exec_transmit_of_ok {s : State} {r : Regs} (hs : s.session = .on r) {t : Byte} {p f : Bytes}
    (h : encodeFrame t p = .ok f) :
    exec (.transmit t p) s = .next { s with txlog := s.txlog ++ [f], result := .ok } := by
  simp only [exec, execTransmit, inSession_on hs, h, sendFrame_of_valid (validate_of_encodeFrame h)]

theorem exec_transmit_of_error {s : State} {r : Regs} (hs : s.session = .on r) {t : Byte} {p : Bytes} {e : ErrorKind}
    (h : encodeFrame t p = .error e) : exec (.transmit t p) s = .next { s with result := .err e } := by
  simp only [exec, execTransmit, inSession_on hs, h, raise_eq]

/-- Settles O16: the three clauses are the three answers of `encodeFrame`, sent or raised. -/
theorem transmitRunsTheOutgoingFlow : Obligations.TransmitRunsTheOutgoingFlow := fun _ p _ _ hs =>
  ⟨fun _ hrow hp => exec_transmit_of_ok hs (encodeFrame_right_length hrow hp),
    fun _ hrow hp => exec_transmit_of_error hs (encodeFrame_wrong_length hrow hp),
    fun ht => exec_transmit_of_error hs (encodeFrame_unregistered ht p)⟩

/-! ## The eight layouts (R85 to R92, R143 to R150) -/

/-- ENCODE of a type and a payload that make a frame answers the frame's layout. -/
theorem exec_encode_of_frameInstr {t : Byte} {p : Bytes} {i : Instr} (h : frameInstr t p = some i) (s : State) :
    exec (.encode t p) s = .next { s with result := .bytes (encode i) } := by
  obtain ⟨hrow, henc⟩ := encode_of_frameInstr h
  rw [henc]
  exact exec_encode_of_ok (encodeFrame_right_length hrow rfl) s

/-- The type and payload that a wire frame hands to DISPATCH make that frame again. -/
theorem frameInstr_of_frameDispatched {i : Instr} {s : State} {t : Byte} {p : Bytes} (hi : i.opSel = none)
    (h : frameDispatched i s = some (t, p)) : frameInstr t p = some i := by
  cases i with
  | setMousePos | setMouseScroll | setMousePress | setMouseRelease | setKeyboardPress | setKeyboardRelease
  | getMouseData | getKeyboardData => cases h; rfl
  | _ => cases hi

/-- Settles O59: the type and payload make the frame, and ENCODE answers its layout. -/
theorem encodeOperationGivesTheFrameEncoding : Obligations.EncodeOperationGivesTheFrameEncoding :=
  fun _ _ _ s hi h => exec_encode_of_frameInstr (frameInstr_of_frameDispatched hi h) s

theorem State.withSession_self {s : State} {x : Session} (h : s.session = x) : s.withSession x = s := by
  subst h
  rfl

/-- R203: DISPATCH of a Set type in a session. -/
theorem exec_dispatch_set {s : State} {r : Regs} (hs : s.session = .on r) {t : Byte}
    (ht : t ∈ [0xAA#8, 0xAB#8, 0xAC#8, 0xAD#8, 0xBB#8, 0xBC#8]) (p : Bytes) :
    exec (.dispatch t p) s = .next { s with result := .none } := by
  simp only [exec, execDispatch, inSession_on hs, dispatch_set ht, State.withSession_self hs, answer_eq]

/-- Settles O8: each type has its layout, its row of the registry, and the no-op of the Set types. -/
theorem setMouseFramesEncodeAndDispatch : Obligations.SetMouseFramesEncodeAndDispatch := fun s _ hs =>
  ⟨fun x y => ⟨exec_encode_of_frameInstr (i := .setMousePos x y) rfl s, exec_dispatch_set hs (by decide) _⟩,
    fun _ hp => exec_encode_wrong_length (l := 6) (by decide) hp s,
    fun v => ⟨exec_encode_of_frameInstr (i := .setMouseScroll v) rfl s, exec_dispatch_set hs (by decide) _⟩,
    fun _ hp => exec_encode_wrong_length (l := 5) (by decide) hp s,
    fun b => ⟨exec_encode_of_frameInstr (i := .setMousePress b) rfl s, exec_dispatch_set hs (by decide) _⟩,
    fun _ hp => exec_encode_wrong_length (l := 5) (by decide) hp s,
    fun b => ⟨exec_encode_of_frameInstr (i := .setMouseRelease b) rfl s, exec_dispatch_set hs (by decide) _⟩,
    fun _ hp => exec_encode_wrong_length (l := 5) (by decide) hp s⟩

/-- Settles O9, from the layouts and rows of the two keyboard types and the no-op of the Set types. -/
theorem setKeyboardFramesEncodeAndDispatch : Obligations.SetKeyboardFramesEncodeAndDispatch := fun s _ hs =>
  ⟨fun k0 k1 => ⟨exec_encode_of_frameInstr (i := .setKeyboardPress k0 k1) rfl s, exec_dispatch_set hs (by decide) _⟩,
    fun _ hp => exec_encode_wrong_length (l := 6) (by decide) hp s,
    fun k0 k1 => ⟨exec_encode_of_frameInstr (i := .setKeyboardRelease k0 k1) rfl s, exec_dispatch_set hs (by decide) _⟩,
    fun _ hp => exec_encode_wrong_length (l := 6) (by decide) hp s⟩

/-- Settles O11: each of the two types has its layout and its row of the registry. -/
theorem getFramesCanBeEncoded : Obligations.GetFramesCanBeEncoded := fun s =>
  ⟨fun b x y w h => exec_encode_of_frameInstr (i := .getMouseData b x y w h) rfl s,
    fun _ hp => exec_encode_wrong_length (l := 9) (by decide) hp s,
    fun m p1 p2 p3 p4 p5 p6 p7 => exec_encode_of_frameInstr (i := .getKeyboardData m p1 p2 p3 p4 p5 p6 p7) rfl s,
    fun _ hp => exec_encode_wrong_length (l := 12) (by decide) hp s⟩

end Sys2Proof.Machine
end

section
/-! PROOFS. The parser (43_parser.md): what a parse answers on each shape of a buffer, that it is the closed function of R184,
and what an invocation makes of it. -/

namespace Sys2Proof.Machine

/-! ## The shapes of a buffer (R183) -/

/-- What the seven steps can find at the front of a buffer, in their order: no byte, another first byte than the marker, the
marker and nothing behind it, a length byte out of range, a chunk that is cut off, and a whole chunk, which is a body with a
checksum behind it. -/
inductive BufferShape : Bytes → Prop where
  | empty : BufferShape []
  | noStart {v : Byte} {rest : Bytes} (hv : v ≠ 0xAB#8) : BufferShape (v :: rest)
  | markerAlone : BufferShape [0xAB#8]
  | badLength {n : Byte} {rest : Bytes} (hn : n.toNat = 0 ∨ 10 < n.toNat) : BufferShape (0xAB#8 :: n :: rest)
  | cutOff {n : Byte} {rest : Bytes} (hn : n.toNat ≤ 10) (hshort : rest.length < n.toNat) :
      BufferShape (0xAB#8 :: n :: rest)
  | chunk {n c : Byte} {body x : Bytes} (hn : n.toNat = body.length + 1) (h10 : body.length + 1 ≤ 10) :
      BufferShape (0xAB#8 :: n :: (body ++ c :: x))

/-- Every buffer has one of the shapes. -/
theorem bufferShape (b : Bytes) : BufferShape b := by
  match b with
  | [] => exact .empty
  | v :: rest =>
    by_cases hv : v = 0xAB#8
    case neg => exact .noStart hv
    subst hv
    match rest with
    | [] => exact .markerAlone
    | n :: rest =>
      by_cases hn : n.toNat = 0 ∨ 10 < n.toNat
      · exact .badLength hn
      by_cases hshort : rest.length < n.toNat
      · exact .cutOff (by omega) hshort
      have hne : n.toNat ≠ 0 := fun h0 => hn (.inl h0)
      obtain ⟨body, c, hbody, hlen⟩ := chunk_split hne (List.length_take_of_le (not_lt.1 hshort))
      have hrest : rest = body ++ c :: rest.drop n.toNat := by
        conv_lhs => rw [← List.take_append_drop n.toNat rest, hbody, List.append_assoc, List.singleton_append]
      rw [hrest]
      exact .chunk hlen (by omega)

/-! ## What a parse answers on each shape (R171 to R177) -/

theorem parse_noStart {v : Byte} (hv : v ≠ 0xAB#8) (rest : Bytes) : parse (v :: rest) = .noFrame .noStart := by
  have hstart : v ≠ Config.start := hv
  cases rest with
  | nil => rw [parse, parseWith_one, if_neg hstart]
  | cons n rest => rw [parse, parseWith_cons, if_pos hstart]

/-- A buffer of the marker and a length byte at least. -/
theorem parse_marker_cons (n : Byte) (rest : Bytes) :
    parse (0xAB#8 :: n :: rest) =
      if n.toNat = 0 ∨ 10 < n.toNat then .noFrame .badLength
      else if rest.length < n.toNat then .noFrame .short
      else parseChunk true n.toNat (rest.take n.toNat) := by
  rw [parse, parseWith_cons, if_neg (by decide)]
  rfl

theorem parse_badLength {n : Byte} (hn : n.toNat = 0 ∨ 10 < n.toNat) (rest : Bytes) :
    parse (0xAB#8 :: n :: rest) = .noFrame .badLength := by
  rw [parse_marker_cons, if_pos hn]

theorem parse_cutOff {n : Byte} {rest : Bytes} (hn : n.toNat ≤ 10) (hshort : rest.length < n.toNat) :
    parse (0xAB#8 :: n :: rest) = .noFrame .short := by
  rw [parse_marker_cons, if_neg (by omega), if_pos hshort]

/-- The checksum is compared first; a body that passes is judged by type and length. -/
theorem parse_chunk {n : Byte} {body : Bytes} (hn : n.toNat = body.length + 1) (h10 : body.length + 1 ≤ 10)
    (c : Byte) (x : Bytes) :
    parse (0xAB#8 :: n :: (body ++ c :: x)) =
      if xorOf body = c then parseBody true (body.length + 1) body else .noFrame .badChecksum := by
  have htake : (body ++ c :: x).take (body.length + 1) = body ++ [c] := by simp [List.take_append]
  rw [parse_marker_cons, hn, if_neg (by omega), if_neg (by simp), htake, parseChunk_append]

theorem parseBody_unregistered {t : Byte} (ht : t ∉ specCodes) (n : Nat) (p : Bytes) :
    parseBody true n (t :: p) = .noFrame .unknownType := by
  simp [parseBody, lengthOf_unregistered ht]

/-- A registered type is compared with the length byte. -/
theorem parseBody_registered {t : Byte} {l : Nat} (hrow : (t, l) ∈ specTable) (n : Nat) (p : Bytes) :
    parseBody true n (t :: p) = if n + 2 = l then .frame t p else .noFrame .lengthMismatch := by
  have hbounds := table_length_bounds hrow
  have hcheck : n = l - 2 ↔ n + 2 = l := by omega
  by_cases h : n + 2 = l <;> simp [parseBody, lengthOf_of_mem hrow, hcheck, h]

/-! ## PARSE is the closed function of R184 -/

theorem exec_parse (s : State) : exec .parse s = .next { s with result := .parsed (parse s.rxbuf) } := rfl

/-- The closed form's last lines, on a chunk whose checksum is right and that has a type byte. -/
theorem parseOfBuffer_checked {n t : Byte} {p : Bytes} (hn : n.toNat = p.length + 2) (h8 : p.length ≤ 8) (x : Bytes) :
    parseOfBuffer (0xAB#8 :: n :: (t :: p ++ xorOf (t :: p) :: x)) =
      if t ∉ specCodes then .noFrame .unknownType
      else if (t, p.length + 4) ∉ specTable then .noFrame .lengthMismatch else .frame t p := by
  have hrange : ¬ 10 < p.length + 2 := by omega
  have hwhole : ¬ p.length + (x.length + 1) + 1 + 1 + 1 < 2 + (p.length + 2) := by omega
  simp [parseOfBuffer, hn, hrange, hwhole, Nat.add_comm 1]

/-- The closed form on a whole chunk: the checksum, and then the steps on the body. -/
theorem parseOfBuffer_chunk {n : Byte} {body : Bytes} (hn : n.toNat = body.length + 1) (h10 : body.length + 1 ≤ 10)
    (c : Byte) (x : Bytes) :
    parseOfBuffer (0xAB#8 :: n :: (body ++ c :: x)) =
      if xorOf body = c then parseBody true (body.length + 1) body else .noFrame .badChecksum := by
  by_cases hc : xorOf body = c
  case neg =>
    have hrange : ¬ 10 < body.length + 1 := by omega
    have hwhole : ¬ body.length + (x.length + 1) + 1 + 1 < 2 + (body.length + 1) := by omega
    simp [parseOfBuffer, hn, hrange, hwhole, hc, Nat.add_comm 1]
  subst hc
  rw [if_pos rfl]
  match body with
  | [] => simp [parseOfBuffer, hn, parseBody]
  | t :: p =>
    have h8 : p.length ≤ 8 := by
      rw [List.length_cons] at h10
      omega
    rw [parseOfBuffer_checked hn h8]
    rcases lengthOf_cases t with ⟨l, hrow, -⟩ | ⟨ht, -⟩
    · have hlength : (t, p.length + 4) ∈ specTable ↔ p.length + 4 = l :=
        ⟨fun h => table_length_unique h hrow, fun h => h ▸ hrow⟩
      simp [parseBody_registered hrow, mem_codes_of_mem_table hrow, hlength]
    · rw [parseBody_unregistered ht, if_pos ht]

theorem parse_eq_parseOfBuffer (b : Bytes) : parse b = parseOfBuffer b := by
  cases bufferShape b with
  | empty => rfl
  | noStart hv => simp [parse_noStart hv, parseOfBuffer, hv]
  | markerAlone => rfl
  | badLength hn => simp [parse_badLength hn, parseOfBuffer, hn]
  | @cutOff n rest hn hshort =>
    have hrange : ¬ (n.toNat = 0 ∨ 10 < n.toNat) := by omega
    have hcut : rest.length + 1 + 1 < 2 + n.toNat := by omega
    rw [parse_cutOff hn hshort]
    simp [parseOfBuffer, hrange, hcut]
  | chunk hn h10 => rw [parse_chunk hn h10, parseOfBuffer_chunk hn h10]

/-- Settles O17: the cursor's algorithm and the closed form agree on every shape of a buffer. -/
theorem parseIsTheBufferFunction : Obligations.ParseIsTheBufferFunction := by
  intro s
  rw [exec_parse, parse_eq_parseOfBuffer]

/-! ## What the parser reads (R184) -/

/-- A chunk is at most ten bytes, and none behind it is read. -/
theorem parse_cons_take {n : Byte} {m : Nat} (h : n.toNat ≤ 10 → n.toNat ≤ m) (v : Byte) (rest : Bytes) :
    parse (v :: n :: rest.take m) = parse (v :: n :: rest) := by
  by_cases hn : n.toNat = 0 ∨ 10 < n.toNat
  · simp only [parse, parseWith_cons, hn, if_true]
  · have hm : n.toNat ≤ m := h (by omega)
    have hshort : (rest.take m).length < n.toNat ↔ rest.length < n.toNat := by
      rw [List.length_take]
      omega
    simp only [parse, parseWith_cons, hshort, List.take_take, min_eq_left hm]

theorem parse_take_twelve (b : Bytes) : parse (b.take 12) = parse b := by
  match b with
  | [] | [_] => rfl
  | v :: _ :: rest => exact parse_cons_take id v rest

/-- Settles O18: neither the twelve bytes nor the `2 + N` cut off anything a parse reads. -/
theorem parserReadsAtMostTwelveBytes : Obligations.ParserReadsAtMostTwelveBytes := by
  refine ⟨fun b c h => ?_, fun v n rest _ => (parse_cons_take (fun _ => le_rfl) v rest).symm⟩
  rw [← parse_take_twelve b, h, parse_take_twelve]

/-! ## Round trip (R188 a) -/

/-- Settles O21: what ENCODE answers is the frame of a row, and a parse of that and a tail yields type and payload. -/
theorem encodeThenParseReturnsTypeAndPayload : Obligations.EncodeThenParseReturnsTypeAndPayload := by
  intro t p f x s s' h hf u
  rcases encodeFrame_cases t p with ⟨l, hrow, hp, e⟩ | ⟨_, _, _, e⟩ | ⟨_, e⟩ <;>
    cases e.symm.trans (encodeFrame_of_exec_encode h hf)
  obtain rfl : l = p.length + 4 := by have := table_length_bounds hrow; omega
  rw [exec_parse, parse_eq_frame_iff.2 ⟨hrow, x, rfl⟩]

/-! ## Damaged frames (R188 b) -/

/-- One of the eight bits of a byte, flipped, gives another byte. -/
theorem flip_ne {k : Nat} (hk : k < 8) (v : Byte) : v ^^^ (1#8 <<< k) ≠ v := by
  have hbit : (1#8 <<< k) ≠ 0#8 := by
    revert k
    decide
  simpa using hbit

/-- A chunk whose checksum over all its bytes is not 0 is damaged. -/
theorem parse_badChecksum {n : Byte} {chunk : Bytes} (hn : n.toNat = chunk.length) (h1 : 1 ≤ chunk.length)
    (h10 : chunk.length ≤ 10) (hx : xorOf chunk ≠ 0x00#8) (x : Bytes) :
    parse (0xAB#8 :: n :: (chunk ++ x)) = .noFrame .badChecksum := by
  have hne : n.toNat ≠ 0 := by omega
  obtain ⟨body, c, rfl, hlen⟩ := chunk_split hne hn.symm
  have hc : xorOf body ≠ c := by rwa [xorOf_concat, Ne, BitVec.xor_eq_zero_iff] at hx
  rw [List.append_assoc, List.singleton_append, parse_chunk hlen (by omega), if_neg hc]

/-- A chunk of one byte would be the type alone, and the checksum of nothing is 0, which is no type: so a body that passes the
checksum begins with the type. -/
theorem body_of_registered_head {t c : Byte} {body rest x : Bytes} (ht : t ∈ specCodes) (hc : xorOf body = c)
    (h : t :: rest = body ++ c :: x) : ∃ p, body = t :: p := by
  cases body with
  | nil =>
    have hzero : t = 0x00#8 := (List.cons.inj h).1.trans hc.symm
    exact absurd (hzero ▸ ht) (by decide)
  | cons v p => exact ⟨p, by rw [(List.cons.inj h).1]⟩

/-- A registered type behind a length byte that is not its own is discarded, and not as an unknown type. -/
theorem parse_wrong_length_byte {t n : Byte} {l : Nat} (hrow : (t, l) ∈ specTable) (hn : n.toNat + 2 ≠ l) (rest : Bytes) :
    ∃ why, parse (0xAB#8 :: n :: t :: rest) = .noFrame why ∧
      (why = .badLength ∨ why = .short ∨ why = .badChecksum ∨ why = .lengthMismatch) := by
  generalize hb : 0xAB#8 :: n :: t :: rest = b
  cases bufferShape b with
  | empty | markerAlone => cases hb
  | noStart hv => exact absurd (List.cons.inj hb).1.symm hv
  | badLength hrange => exact ⟨_, parse_badLength hrange _, .inl rfl⟩
  | cutOff hrange hshort => exact ⟨_, parse_cutOff hrange hshort, .inr (.inl rfl)⟩
  | @chunk _ c body x hlen h10 =>
    simp only [List.cons.injEq] at hb
    obtain ⟨-, rfl, hrest⟩ := hb
    rw [parse_chunk hlen h10]
    by_cases hc : xorOf body = c
    · obtain ⟨p, rfl⟩ := body_of_registered_head (mem_codes_of_mem_table hrow) hc hrest
      rw [if_pos hc, parseBody_registered hrow, if_neg (hlen ▸ hn)]
      exact ⟨_, rfl, .inr (.inr (.inr rfl))⟩
    · rw [if_neg hc]
      exact ⟨_, rfl, .inr (.inr (.inl rfl))⟩

/-- A chunk of a frame with one byte changed fails the checksum, since the frame's passes. -/
theorem parse_chunk_set {n v : Byte} {body : Bytes} {j : Nat} (hn : n.toNat = body.length + 1) (h10 : body.length + 1 ≤ 10)
    (hj : j < body.length + 1) (hv : v ≠ (body ++ [xorOf body]).getD j 0x00#8) (x : Bytes) :
    parse (0xAB#8 :: n :: ((body ++ [xorOf body]).set j v ++ x)) = .noFrame .badChecksum := by
  have hj' : j < (body ++ [xorOf body]).length := by simpa using hj
  refine parse_badChecksum (by simp [hn]) (by simp) (by simpa using h10) (fun h0 => ?_) x
  have hsame : xorOf ((body ++ [xorOf body]).set j v) = xorOf (body ++ [xorOf body]) := by
    rw [h0, xorOf_concat, BitVec.xor_self]
  refine hv ?_
  rw [(xorOf_set_eq_iff hj' v).1 hsame, List.getD_eq_getElem _ _ hj']

/-- A frame of a row, as its marker, its length byte and its chunk. -/
theorem specFrame_eq_cons (t : Byte) (l : Nat) (p : Bytes) :
    specFrame t l p = 0xAB#8 :: BitVec.ofNat 8 (l - 2) :: (t :: p ++ [xorOf (t :: p)]) := rfl

/-- The length byte of a row's frame. -/
theorem lengthByte_toNat {t : Byte} {l : Nat} (hrow : (t, l) ∈ specTable) : (BitVec.ofNat 8 (l - 2)).toNat = l - 2 := by
  have := table_length_bounds hrow
  rw [BitVec.toNat_ofNat]
  omega

/-- A frame of a row with one byte changed, and anything behind it, is discarded, and for which reason. -/
theorem parse_specFrame_set {t : Byte} {l i : Nat} {p : Bytes} {v : Byte} (hrow : (t, l) ∈ specTable) (hp : p.length = l - 4)
    (hi : i < l) (hv : v ≠ (specFrame t l p).getD i 0x00#8) (x : Bytes) :
    ∃ why, parse ((specFrame t l p).set i v ++ x) = .noFrame why ∧
      (i = 0 → why = .noStart) ∧
      (i = 1 → why = .badLength ∨ why = .short ∨ why = .badChecksum ∨ why = .lengthMismatch) ∧
      (2 ≤ i → why = .badChecksum) := by
  have hbounds := table_length_bounds hrow
  have hbyte := lengthByte_toNat hrow
  rw [specFrame_eq_cons] at hv ⊢
  match i with
  | 0 => exact ⟨_, parse_noStart hv _, by simp⟩
  | 1 =>
    have hwrong : v.toNat + 2 ≠ l := fun h => hv (BitVec.eq_of_toNat_eq ((Nat.eq_sub_of_add_eq h).trans hbyte.symm))
    obtain ⟨why, hparse, hwhy⟩ := parse_wrong_length_byte hrow hwrong (p ++ [xorOf (t :: p)] ++ x)
    exact ⟨why, hparse, by simp [hwhy]⟩
  | j + 2 =>
    have hlen : (BitVec.ofNat 8 (l - 2)).toNat = (t :: p).length + 1 := by
      rw [hbyte, List.length_cons]
      omega
    exact ⟨_, parse_chunk_set hlen (by omega) (by omega) hv x, by simp⟩

/-- Settles O22: a byte with one bit flipped is another byte. -/
theorem singleBitFlipsAreDiscarded : Obligations.SingleBitFlipsAreDiscarded := by
  intro t l p x i k u hrow hp hi hk f flipped
  obtain ⟨why, hparse, hwhy⟩ := parse_specFrame_set hrow hp hi (flip_ne hk (f.getD i 0x00#8)) x
  refine ⟨why, ?_, hwhy⟩
  rw [exec_parse, hparse]

/-! ## INVOKE (R182) -/

/-- An invocation with a frame in the buffer receives it, or is refused with it outside a session. -/
theorem exec_invoke_of_frame {s : State} {t : Byte} {p : Bytes} (h : parse s.rxbuf = .frame t p) :
    exec .invoke s = receive t p s := by
  cases hs : s.session with
  | off => exact (inSession_off hs _).trans (inSession_off hs _).symm
  | on r => exact (execInvoke_on hs).trans (by rw [h])

theorem exec_invoke_of_noFrame {s : State} {r : Regs} (hs : s.session = .on r) {why : DiscardReason}
    (h : parse s.rxbuf = .noFrame why) :
    exec .invoke s = .next { s with
      rxbuf := [], notifications := s.notifications - 1, result := .parsed (.noFrame why) } :=
  (execInvoke_on hs).trans (by rw [h])

/-- Settles O19: a frame that is parsed fits a row of the registry, so DISPATCH takes it. -/
theorem invokeDispatchesAndFlushes : Obligations.InvokeDispatchesAndFlushes := by
  intro s r hs
  rw [← parse_eq_parseOfBuffer]
  refine ⟨fun t p h => ?_, fun why h => exec_invoke_of_noFrame hs h⟩
  obtain ⟨r', hd⟩ := dispatch_of_table (parse_eq_frame_iff.1 h).1 r
  exact ⟨r', hd, (exec_invoke_of_frame h).trans (receive_of_dispatch hs hd)⟩

/-- Settles O23: the checksum is right, so the type is looked up, and it is not registered. -/
theorem unknownTypesAreDroppedSilently : Obligations.UnknownTypesAreDroppedSilently := by
  intro t p x s r ht hp hs hbuf
  refine exec_invoke_of_noFrame hs ?_
  have hn : (BitVec.ofNat 8 (p.length + 2)).toNat = (t :: p).length + 1 := by
    rw [BitVec.toNat_ofNat, List.length_cons]
    omega
  have hshape : s.rxbuf = 0xAB#8 :: BitVec.ofNat 8 (p.length + 2) :: (t :: p ++ xorOf (t :: p) :: x) := by simp [hbuf]
  rw [hshape, parse_chunk hn (Nat.add_le_add_right hp 2), if_pos rfl, parseBody_unregistered ht]

/-! ## The wire frames as instructions (R178, log entry 9) -/

/-- To run a frame is to receive its type and payload. -/
theorem exec_of_frameInstr {t : Byte} {p : Bytes} {i : Instr} (h : frameInstr t p = some i) (s : State) :
    exec i s = receive t p s := by
  unfold frameInstr at h
  split at h
  case h_9 => cases h
  all_goals
    rename_i ht
    obtain rfl := eq_wireCode ht (by decide)
    cases h
    rfl

/-- Settles O53: a frame that is fetched is received, as INVOKE does; where none is fetched INVOKE itself runs. -/
theorem runningTheFetchedFrameIsInvoke : Obligations.RunningTheFetchedFrameIsInvoke := by
  intro s
  unfold fetchFrame
  cases h : decodeFrame s.rxbuf with
  | error _ => rfl
  | ok i =>
    obtain ⟨t, p, hparse, hi⟩ := decodeFrame_eq_ok.1 h
    exact (exec_of_frameInstr hi s).trans (exec_invoke_of_frame hparse).symm

/-- A frame whose DISPATCH is accepted, received in a session. -/
theorem exec_received {t : Byte} {p : Bytes} {i : Instr} {s : State} {r r' : Regs} (hs : s.session = .on r)
    (hi : frameInstr t p = some i) (hd : dispatch t p r = some r') :
    exec i s = .next { s with
      session := .on r', rxbuf := [], notifications := s.notifications - 1, result := .parsed (.frame t p) } :=
  (exec_of_frameInstr hi s).trans (receive_of_dispatch hs hd)

/-- A frame of a Set type, received in a session: DISPATCH gives the registers back as they were. -/
theorem exec_received_set {t : Byte} {p : Bytes} {i : Instr} {s : State} {r : Regs} (hs : s.session = .on r)
    (hi : frameInstr t p = some i) (ht : t ∈ [0xAA#8, 0xAB#8, 0xAC#8, 0xAD#8, 0xBB#8, 0xBC#8]) :
    exec i s = .next { s with
      rxbuf := [], notifications := s.notifications - 1, result := .parsed (.frame t p) } := by
  rw [exec_received hs hi (dispatch_set ht p r), ← hs]

/-- Settles O10: each of the six is a frame of a Set type. -/
theorem receivedSetFramesWriteNoRegister : Obligations.ReceivedSetFramesWriteNoRegister := fun _ _ hs =>
  ⟨fun _ _ => exec_received_set hs rfl (by decide), fun _ => exec_received_set hs rfl (by decide),
    fun _ => exec_received_set hs rfl (by decide), fun _ => exec_received_set hs rfl (by decide),
    fun _ _ => exec_received_set hs rfl (by decide), fun _ _ => exec_received_set hs rfl (by decide)⟩

/-- Settles O27: the registers are those DISPATCH gives for the two Get types. -/
theorem receivedGetFramesUpdateTheState : Obligations.ReceivedGetFramesUpdateTheState := fun _ r hs =>
  ⟨fun b x y w h => exec_received hs rfl (dispatch_mouse b x y w h r),
    fun m p1 p2 p3 p4 p5 p6 p7 => exec_received hs rfl (dispatch_keyboard m p1 p2 p3 p4 p5 p6 p7 r)⟩

end Sys2Proof.Machine
end

section
/-! PROOFS. The dispatcher (44_dispatcher.md): what DISPATCH, the two drains and the three peeks do in a session, the two orders of
a dispatch and a drain, and when an accumulator is the exact sum of its deltas. -/

namespace Sys2Proof.Machine

/-! ## DISPATCH (R200 to R204) -/

/-- DISPATCH within its contract: the registers it gives are written, and there is no result. -/
theorem exec_dispatch_of_some {s : State} {r r' : Regs} (hs : s.session = .on r) {t : Byte} {p : Bytes}
    (hd : dispatch t p r = some r') :
    exec (.dispatch t p) s = .next { s with session := .on r', result := .none } := by
  simp only [exec, execDispatch, inSession_on hs, hd]
  rfl

theorem exec_dispatch_of_none {s : State} {r : Regs} (hs : s.session = .on r) {t : Byte} {p : Bytes}
    (hd : dispatch t p r = none) : exec (.dispatch t p) s = .refused .dispatchContract := by
  simp only [exec, execDispatch, inSession_on hs, hd]

/-- Settles O25: the registers written are those of `applyMouse`. -/
theorem getMouseDataAccumulates : Obligations.GetMouseDataAccumulates := fun b x y w h _ r hs =>
  exec_dispatch_of_some hs (dispatch_mouse b x y w h r)

/-- Settles O26: the registers written are those of `applyKeyboard`, which the last payload byte does not reach. -/
theorem getKeyboardDataReplacesTheKeys : Obligations.GetKeyboardDataReplacesTheKeys :=
  fun m p1 p2 p3 p4 p5 p6 p7 _ r hs => exec_dispatch_of_some hs (dispatch_keyboard m p1 p2 p3 p4 p5 p6 p7 r)

/-- Settles O28: DISPATCH of a Set type gives the registers back as they were. -/
theorem dispatchOfSetTypesIsANoOp : Obligations.DispatchOfSetTypesIsANoOp :=
  fun _ p _ _ hs ht => exec_dispatch_set hs ht p

/-- Settles O29: for each of the three broken contracts DISPATCH gives no registers. -/
theorem dispatchRefusesABrokenContract : Obligations.DispatchRefusesABrokenContract := by
  rintro t p s r hs (ht | ⟨rfl, hp⟩ | ⟨rfl, hp⟩)
  · exact exec_dispatch_of_none hs (dispatch_unregistered ht p r)
  · exact exec_dispatch_of_none hs (dispatch_mouse_length hp r)
  · exact exec_dispatch_of_none hs (dispatch_keyboard_length hp r)

/-! ## The consumer's reads (R206 to R210) -/

/-- Settles O30: in a session the guard lets the drain run, which writes and answers in one step. -/
theorem drainPointerReadsAndClears : Obligations.DrainPointerReadsAndClears :=
  fun _ _ hs => (inSession_on hs _).trans (answer_eq _ _)

/-- Settles O31, as for the pointer. -/
theorem drainScrollReadsAndClears : Obligations.DrainScrollReadsAndClears :=
  fun _ _ hs => (inSession_on hs _).trans (answer_eq _ _)

/-- Settles O32: in a session the guard lets each peek run, and a peek only answers. -/
theorem peeksReturnTheLevelState : Obligations.PeeksReturnTheLevelState := fun _ _ hs =>
  ⟨(inSession_on hs _).trans (answer_eq _ _), (inSession_on hs _).trans (answer_eq _ _),
    (inSession_on hs _).trans (answer_eq _ _)⟩

/-! ## A dispatch and a drain in either order (R213, R72) -/

/-- Settles O36: the two operations run one after the other, each by its own law. Drained first, an accumulator is zero plus the
delta; dispatched first, the drain reads the sum. -/
theorem dispatchAndDrainInEitherOrder : Obligations.DispatchAndDrainInEitherOrder := by
  intro b x y w h s r hs
  have hmouse := getMouseDataAccumulates b x y w h
  refine ⟨?pointerFirst, ?pointerLast, ?scrollFirst, ?scrollLast⟩
  case pointerFirst =>
    exact ⟨_, _, _, drainPointerReadsAndClears s r hs, rfl, hmouse _ _ rfl, rfl, BitVec.zero_add _, BitVec.zero_add _⟩
  case pointerLast => exact ⟨_, _, _, hmouse s r hs, drainPointerReadsAndClears _ _ rfl, rfl, rfl, rfl, rfl⟩
  case scrollFirst =>
    exact ⟨_, _, _, drainScrollReadsAndClears s r hs, rfl, hmouse _ _ rfl, rfl, BitVec.zero_add _, BitVec.zero_add _⟩
  case scrollLast => exact ⟨_, _, _, hmouse s r hs, drainScrollReadsAndClears _ _ rfl, rfl, rfl, rfl, rfl⟩

/-! ## Wrap and exactness of the accumulators (R212)

The accumulation of any deltas is their integer sum wrapped into the signed range. A delta is at least -2^7 and less than 2^7, so
fewer than 2^24 of them sum to a number in that range, which the wrap keeps. -/

/-- `acc_add` of one sign-extended delta. -/
theorem toInt_accAdd_sext32 (a : Acc) (d : Byte) : (accAdd a (sext32 d)).toInt = (a.toInt + s8 d).bmod (2 ^ 32) := by
  rw [accAdd_eq, sext32_eq, BitVec.toInt_add, BitVec.toInt_signExtend_of_le (by decide), s8]

/-- The accumulation of any number of deltas, from any content. -/
theorem toInt_foldl_accAdd (ds : Bytes) (a : Acc) :
    (ds.foldl (fun a d => accAdd a (sext32 d)) a).toInt = (a.toInt + (ds.map s8).sum).bmod (2 ^ 32) := by
  induction ds generalizing a with
  | nil => simpa using (BitVec.toInt_bmod_cancel a).symm
  | cons d ds ih =>
    rw [List.foldl_cons, ih, toInt_accAdd_sext32, Int.bmod_add_bmod, List.map_cons, List.sum_cons, Int.add_assoc]

theorem s8_bounds (v : Byte) : -128 ≤ s8 v ∧ s8 v ≤ 127 :=
  ⟨BitVec.le_toInt v, Int.lt_add_one_iff.1 (BitVec.toInt_lt (x := v))⟩

theorem sum_s8_bounds (ds : Bytes) :
    (ds.length : Int) * -128 ≤ (ds.map s8).sum ∧ (ds.map s8).sum ≤ (ds.length : Int) * 127 := by
  have hlo := (ds.map s8).card_nsmul_le_sum (-128) (List.forall_mem_map.2 fun v _ => (s8_bounds v).1)
  have hhi := (ds.map s8).sum_le_card_nsmul 127 (List.forall_mem_map.2 fun v _ => (s8_bounds v).2)
  rw [List.length_map, nsmul_eq_mul] at hlo hhi
  exact ⟨hlo, hhi⟩

/-- Settles O35: the accumulation is the wrapped sum (`toInt_foldl_accAdd`), and below 2^24 deltas the sum is in the range that the
wrap keeps (`sum_s8_bounds`). -/
theorem accumulatorIsExactBelowTwoToThe24Frames : Obligations.AccumulatorIsExactBelowTwoToThe24Frames := by
  refine ⟨toInt_accAdd_sext32, fun ds hds => ?_⟩
  obtain ⟨hlo, hhi⟩ := sum_s8_bounds ds
  have hlen : (ds.length : Int) < 2 ^ 24 := by exact_mod_cast hds
  calc (ds.foldl (fun a d => accAdd a (sext32 d)) 0#32).toInt
      = ((0#32).toInt + (ds.map s8).sum).bmod (2 ^ 32) := toInt_foldl_accAdd ds 0#32
    _ = (ds.map s8).sum.bmod (2 ^ 32) := by rw [BitVec.toInt_zero, Int.zero_add]
    _ = (ds.map s8).sum := Int.bmod_eq_of_le (by omega) (by omega)

end Sys2Proof.Machine
end

section
/-! PROOFS. Exceptions (60_exceptions.md): that an invocation completes whatever the peer sent, that an operation which raises has
written nothing, what an operation's role lets it write, and that pending notifications are served one by one. -/

namespace Sys2Proof.Machine

/-! ## An invocation completes (R234, R236) -/

/-- INVOKE in a session, whatever is in the buffer: it writes the registers, and without a frame it writes back the old ones. -/
theorem exec_invoke_on {s : State} {r : Regs} (hs : s.session = .on r) :
    ∃ r' res, exec .invoke s = .next { s with
        session := .on r', rxbuf := [], notifications := s.notifications - 1, result := .parsed res } ∧
      ∀ why, res = .noFrame why → r' = r := by
  obtain ⟨hframe, hnoFrame⟩ := invokeDispatchesAndFlushes s r hs
  cases hp : parseOfBuffer s.rxbuf with
  | frame t p =>
    obtain ⟨r', -, h⟩ := hframe t p hp
    exact ⟨r', .frame t p, h, nofun⟩
  | noFrame why => exact ⟨r, .noFrame why, hs ▸ hnoFrame why hp, fun _ _ => rfl⟩

/-- Settles O20: every field the statement speaks of stands in `exec_invoke_on`. -/
theorem inboundAnomaliesNeverStopTheBlock : Obligations.InboundAnomaliesNeverStopTheBlock := by
  intro s r hs
  obtain ⟨r', res, h, hkept⟩ := exec_invoke_on hs
  exact ⟨_, res, h, rfl, rfl, rfl, rfl, rfl, fun why hres => (congrArg Session.on (hkept why hres)).trans hs.symm⟩

/-! ## Errors (R230 to R233) -/

/-- The operations that raise, with their operands' fault and the error it gives. -/
inductive Raises : Instr → ErrorKind → Prop where
  | lookup {t : Byte} (ht : t ∉ specCodes) : Raises (.lengthof t) .invalidFrameType
  | encoder {i : Instr} {t : Byte} {p : Bytes} {e : ErrorKind} (hi : i = .encode t p ∨ i = .transmit t p)
      (he : encodeFrame t p = .error e) : Raises i e
  | validator {b : Bytes} (hb : validate b = false) : Raises (.send b) .invalidFrame

/-- The encoder never raises the validator's error. -/
theorem ne_invalidFrame_of_encodeFrame {t : Byte} {p : Bytes} {e : ErrorKind} (h : encodeFrame t p = .error e) :
    e ≠ .invalidFrame := by
  rcases encodeFrame_cases t p with ⟨l, -, -, heq⟩ | ⟨l, -, -, heq⟩ | ⟨-, heq⟩ <;> cases heq.symm.trans h <;> decide

/-- An operation that can only deliver one result has delivered that one. -/
theorem result_eq_of_exec {i : Instr} {s : State} {v w : Result} (h : exec i s = .next { s with result := v })
    (h' : exec i s = .next { s with result := w }) : v = w := by
  cases h.symm.trans h'
  rfl

/-- Of the operations that only deliver a result, LENGTHOF and ENCODE can deliver an error. -/
theorem raises_of_delivers {i : Instr} (hi : Instr.delivers i) {s : State} {e : ErrorKind}
    (h : exec i s = .next { s with result := .err e }) : Raises i e := by
  rcases hi with hi | ⟨t, p, rfl⟩ | ⟨b, rfl⟩ | rfl
  · cases i with
    | lengthof t =>
      rcases lengthOf_cases t with ⟨l, hrow, -⟩ | ⟨ht, -⟩
      · cases result_eq_of_exec h (exec_lengthof_of_mem hrow s)
      · cases result_eq_of_exec h (exec_lengthof_unregistered ht s)
        exact .lookup ht
    | xorsum b => cases result_eq_of_exec h (exec_xorsum b s)
    | xorvalid b c => cases result_eq_of_exec h (exec_xorvalid b c s)
    | isvalidtype t => cases result_eq_of_exec h (exec_isvalidtype t s)
    | wiretypeof v => cases result_eq_of_exec h (exec_wiretypeof v s)
    | wirecode T => cases result_eq_of_exec h (exec_wirecode T s)
    | _ => cases hi
  · cases he : encodeFrame t p with
    | ok f => cases result_eq_of_exec h (exec_encode_of_ok he s)
    | error e' =>
      cases result_eq_of_exec h (exec_encode_of_error he s)
      exact .encoder (.inl rfl) he
  · cases result_eq_of_exec h (exec_validate b s)
  · cases result_eq_of_exec h (exec_parse s)

/-- An operation that delivers an error has raised it and has written nothing but the result. -/
theorem exec_raises {i : Instr} {s s' : State} {e : ErrorKind} (h : exec i s = .next s') (he : s'.result = .err e) :
    s' = { s with result := .err e } ∧ Raises i e := by
  cases exec_effect h with
  | delivered v hi =>
    cases he
    exact ⟨rfl, raises_of_delivers hi h⟩
  | sendRejected _ hb =>
    cases he
    exact ⟨rfl, .validator hb⟩
  | transmitFailed e' _ hraised =>
    cases he
    exact ⟨rfl, .encoder (.inr rfl) hraised⟩
  | _ => cases he

/-- Settles O42: the state is the one `exec_raises` gives, and each kind of `Raises` has its operations and its errors. -/
theorem raisedErrorsChangeNothing : Obligations.RaisedErrorsChangeNothing := by
  intro i s s' e h he
  obtain ⟨hs', hraises⟩ := exec_raises h he
  refine ⟨hs', ?_⟩
  cases hraises with
  | lookup => exact ⟨fun _ => .inl ⟨_, rfl⟩, nofun, nofun⟩
  | encoder hi herr =>
    exact ⟨fun _ => .inr ⟨_, _, hi⟩, fun _ => ⟨_, _, hi⟩,
      fun hkind => absurd hkind (ne_invalidFrame_of_encodeFrame herr)⟩
  | validator => exact ⟨nofun, nofun, fun _ => ⟨_, rfl⟩⟩

/-! ## Roles (R16, R26, R244)

One lemma for each part of the state, from the role to what it leaves alone; each reads it off the effects. -/

theorem role_of_invocation {i : Instr} (h : i = .invoke ∨ i.opSel = none) : i.role = .producer := by
  rcases h with rfl | h
  · rfl
  · cases i with
    | setMousePos | setMouseScroll | setMousePress | setMouseRelease | setKeyboardPress | setKeyboardRelease
    | getMouseData | getKeyboardData => rfl
    | _ => cases h

theorem Instr.delivers.role_ne_consumer {i : Instr} (h : Instr.delivers i) : i.role ≠ .consumer := by
  rcases h with hr | ⟨t, p, rfl⟩ | ⟨b, rfl⟩ | rfl
  · simp [hr]
  all_goals simp [Instr.role]

theorem exec_keeps_agenda {i : Instr} {s s' : State} (h : exec i s = .next s') : s'.agenda = s.agenda := by
  cases exec_effect h <;> rfl

theorem exec_keeps_live {i : Instr} {s s' : State} (h : exec i s = .next s') (hi : i.role ≠ .owner) :
    s'.live = s.live := by
  cases exec_effect h with
  | dispatched hs | received _ _ hs | drainedPointer hs | drainedScroll hs => exact (State.live_of_on hs).symm
  | started | ended => exact absurd rfl hi
  | _ => rfl

theorem exec_keeps_txlog {i : Instr} {s s' : State} (h : exec i s = .next s') (hi : i.role ≠ .issuer) :
    s'.txlog = s.txlog := by
  cases exec_effect h with
  | sent | transmitted => exact absurd rfl hi
  | _ => rfl

/-- Only the producer takes bytes and notifications from the transport. -/
theorem exec_keeps_inbound {i : Instr} {s s' : State} (h : exec i s = .next s') (hi : i.role ≠ .producer) :
    s'.rxbuf = s.rxbuf ∧ s'.notifications = s.notifications := by
  cases exec_effect h with
  | received hinvocation => exact absurd (role_of_invocation hinvocation) hi
  | discarded => exact absurd rfl hi
  | _ => exact ⟨rfl, rfl⟩

theorem exec_keeps_session {i : Instr} {s s' : State} (h : exec i s = .next s')
    (hi : i.role = .issuer ∨ i.role = .anyone) : s'.session = s.session := by
  cases exec_effect h with
  | received hinvocation => simp [role_of_invocation hinvocation] at hi
  | dispatched | drainedPointer | drainedScroll | started | ended => simp [Instr.role] at hi
  | _ => rfl

/-- A consumer runs in a session, keeps the level registers, and keeps each accumulator or clears it. -/
theorem exec_consumer {i : Instr} {s s' : State} (h : exec i s = .next s') (hi : i.role = .consumer) :
    ∃ r r', s.session = .on r ∧ s'.session = .on r' ∧ r.SameLevels r' ∧ ∀ a, r'.acc a = r.acc a ∨ r'.acc a = 0#32 := by
  cases exec_effect h with
  | delivered _ hdelivers => exact absurd hi hdelivers.role_ne_consumer
  | received hinvocation => simp [role_of_invocation hinvocation] at hi
  | drainedPointer hs =>
    refine ⟨_, _, hs, rfl, ⟨rfl, rfl, rfl⟩, fun a => ?_⟩
    cases a with
    | dx | dy => exact .inr rfl
    | dw | dh => exact .inl rfl
  | drainedScroll hs =>
    refine ⟨_, _, hs, rfl, ⟨rfl, rfl, rfl⟩, fun a => ?_⟩
    cases a with
    | dx | dy => exact .inl rfl
    | dw | dh => exact .inr rfl
  | peekedButtons hs | peekedModifier hs | peekedKeys hs => exact ⟨_, _, hs, hs, .refl _, fun _ => .inl rfl⟩
  | _ => cases hi

/-- Settles O43: one lemma for each clause; that only the owner changes `LIVE` is `exec_keeps_live` the other way round. -/
theorem rolesBoundWhatOperationsWrite : Obligations.RolesBoundWhatOperationsWrite := by
  intro i s s' h
  refine ⟨fun hi => ⟨exec_keeps_session h hi, exec_keeps_inbound h ?notProducer⟩, exec_keeps_txlog h, fun hi => ?consumer,
    fun hi => exec_keeps_inbound h (by simp [hi]), not_imp_comm.1 (exec_keeps_live h),
    exec_keeps_agenda h⟩
  case notProducer => rcases hi with hi | hi <;> simp [hi]
  case consumer =>
    obtain ⟨r, r', hs, hs', ⟨hbtn, hmod, hkeys⟩, hacc⟩ := exec_consumer h hi
    exact ⟨r, r', hs, hs', hbtn, hmod, hkeys, hacc, exec_keeps_inbound h (by simp [hi])⟩

/-! ## Pending notifications (R237)

The first invocation runs on the buffer as it stands and empties it; every later one finds it empty and touches no register. -/

/-- With no turn scheduled a pending notification is served, and to serve is INVOKE. -/
theorem step_of_pending {s : State} {r : Regs} (hagenda : s.agenda = []) (hs : s.session = .on r)
    (hpending : 0 < s.notifications) : step s = exec .invoke s := by
  have hserves : step s = serve s := by simp [step, hagenda, State.live_of_on hs, hpending]
  exact hserves.trans (runningTheFetchedFrameIsInvoke s)

theorem run_succ_of_step {s s' : State} (h : step s = .next s') (n : Nat) :
    Host.Core.run core (n + 1) s = Host.Core.run core n s' := by
  have hcore : core.step s = .next s' := h
  simp only [Host.Core.run, hcore]

/-- An invocation on an empty buffer clears its notification and changes no other part of the state. -/
theorem exec_invoke_of_empty {s : State} {r : Regs} (hs : s.session = .on r) (hempty : s.rxbuf = []) :
    exec .invoke s = .next { s with
      notifications := s.notifications - 1, result := .parsed (.noFrame .empty) } := by
  have hparse : parse s.rxbuf = .noFrame .empty := by rw [hempty]; rfl
  rw [exec_invoke_of_noFrame hs hparse, ← hempty]

/-- With an empty buffer `n` steps clear `n` notifications and change nothing else but the result. -/
theorem run_pending_of_empty (n : Nat) {s : State} {r : Regs} (hagenda : s.agenda = []) (hs : s.session = .on r)
    (hempty : s.rxbuf = []) (hpending : n ≤ s.notifications) :
    ∃ v, Host.Core.run core n s = .next { s with notifications := s.notifications - n, result := v } := by
  induction n generalizing s with
  | zero => exact ⟨s.result, rfl⟩
  | succ n ih =>
    have hstep := (step_of_pending hagenda hs (by omega)).trans (exec_invoke_of_empty hs hempty)
    obtain ⟨v, hrun⟩ := ih (s := { s with
      notifications := s.notifications - 1, result := .parsed (.noFrame .empty) })
      hagenda hs hempty (Nat.le_sub_one_of_lt hpending)
    exact ⟨v, by rw [run_succ_of_step hstep, hrun, Nat.sub_right_comm, Nat.sub_add_eq]⟩

/-- Settles O55: the first step is the INVOKE of `exec_invoke_on`, and the steps behind it are those of
`run_pending_of_empty`. -/
theorem pendingNotificationsAreServedOneByOne : Obligations.PendingNotificationsAreServedOneByOne := by
  refine ⟨fun s r hagenda hs hpending => step_of_pending hagenda hs hpending, fun n s r hagenda hs hpending => ?_⟩
  cases n with
  | zero => exact ⟨s, rfl, rfl, State.live_of_on hs, hagenda, rfl, nofun⟩
  | succ n =>
    obtain ⟨r', res, hinvoke, -⟩ := exec_invoke_on hs
    obtain ⟨v, hrun⟩ := run_pending_of_empty n (s := { s with
      session := .on r', rxbuf := [], notifications := s.notifications - 1, result := .parsed res })
      hagenda rfl rfl (Nat.le_sub_one_of_lt hpending)
    have hfirst := (step_of_pending hagenda hs (by omega)).trans hinvoke
    exact ⟨_, (run_succ_of_step hfirst n).trans hrun, Nat.sub_right_comm _ 1 n, rfl, hagenda, rfl,
      fun _ => ⟨rfl, _, hinvoke, rfl⟩⟩

end Sys2Proof.Machine
end

section
/-! PROOFS. Reset and hazards (70_reset_and_hazards.md): the two operations of the session owner, what runs outside a session, when
an operation completes, and that the record of frames handed to the transport stays valid. -/

namespace Sys2Proof.Machine

/-! ## The record of frames stays valid (R276, R54, R154) -/

theorem State.Inv.of_txlog_eq {s s' : State} (hinv : s.Inv) (h : s'.txlog = s.txlog) : s'.Inv := by
  intro f hf
  exact hinv f (h ▸ hf)

theorem State.Inv.of_txlog_append {s s' : State} {f : Bytes} (hinv : s.Inv) (h : s'.txlog = s.txlog ++ [f])
    (hf : validate f = true) : s'.Inv := by
  unfold State.Inv
  rw [h, List.forall_mem_append, List.forall_mem_singleton]
  exact ⟨hinv, hf⟩

/-- An operation leaves the record, or appends one frame that passes the four checks. -/
theorem exec_keeps_inv {i : Instr} {s s' : State} (h : exec i s = .next s') (hinv : s.Inv) : s'.Inv := by
  rcases transportGetsWholeValidFramesInOrder i s s' h with hkept | ⟨f, happended, hf, -⟩
  · exact hinv.of_txlog_eq hkept
  · exact hinv.of_txlog_append happended ((validate_iff_specValid f).2 hf)

/-- Settles O48: the operation a step runs keeps the invariant (`exec_keeps_inv`); the agenda, the transport's turn and an idle step
do not touch the record. -/
theorem stepKeepsTheTransportRecordValid : Obligations.StepKeepsTheTransportRecordValid := by
  intro s s' hinv h
  cases step_effect h with
  | ran rest _ he => exact exec_keeps_inv he (hinv.of_txlog_eq rfl)
  | arrived | idle => exact hinv.of_txlog_eq rfl

/-! ## The session owner (R260, R262) -/

theorem execSessionStart_on {s : State} {r : Regs} (h : s.session = .on r) :
    execSessionStart s = .refused .sessionLive := by
  simp only [execSessionStart, h]

/-- Settles O37: the registers written are `Regs.zero`. -/
theorem sessionStartZeroesEveryRegister : Obligations.SessionStartZeroesEveryRegister :=
  ⟨fun _ hs => execSessionStart_off hs, fun _ _ hs => execSessionStart_on hs⟩

/-- Settles O38: in a session the guard lets SESSION_END run; the state it leaves is one outside a session, to which the law of
SESSION_START applies. -/
theorem sessionEndTakesTheStateAway : Obligations.SessionEndTakesTheStateAway := fun _ _ hs =>
  ⟨(inSession_on hs _).trans (answer_eq _ _), sessionStartZeroesEveryRegister.1 _ rfl⟩

/-! ## Outside a session (R263) -/

theorem exec_of_delivers {i : Instr} (hi : Instr.delivers i) (s : State) : ∃ v, exec i s = .next { s with result := v } := by
  have hcases : (i.role = .anyone ∨ (∃ t p, i = .encode t p) ∨ ∃ b, i = .validate b) ∨ i = .parse := by
    simpa only [Instr.delivers, or_assoc] using hi
  rcases hcases with hpure | rfl
  · obtain ⟨v, hv⟩ := exec_pure hpure
    exact ⟨v, hv s⟩
  · exact ⟨_, exec_parse s⟩

/-- Every operation stands behind the guard, but those that only deliver and SESSION_START. -/
theorem exec_off {i : Instr} {s : State} (hs : s.session = .off) (hdelivers : ¬ Instr.delivers i)
    (hstart : i ≠ .sessionStart) : exec i s = .refused .noSession := by
  cases i with
  | xorsum | xorvalid | lengthof | isvalidtype | wiretypeof | wirecode => exact absurd (.inl rfl) hdelivers
  | encode t p => exact absurd (.inr (.inl ⟨t, p, rfl⟩)) hdelivers
  | validate b => exact absurd (.inr (.inr (.inl ⟨b, rfl⟩))) hdelivers
  | parse => exact absurd (.inr (.inr (.inr rfl))) hdelivers
  | sessionStart => exact absurd rfl hstart
  | _ => exact inSession_off hs _

/-- Settles O39: the operations of the first clause are those that only deliver; the others are refused (`exec_off`). -/
theorem outsideASessionOnlyPureOperationsRun : Obligations.OutsideASessionOnlyPureOperationsRun :=
  fun _ s hs _ hstart => ⟨fun hdelivers => exec_of_delivers hdelivers s, fun hdelivers => exec_off hs hdelivers hstart⟩

/-- Settles O40: a frame's instruction is an invocation, so it does more than deliver, and it is not SESSION_START. -/
theorem framesOutsideASessionAreRefused : Obligations.FramesOutsideASessionAreRefused := by
  intro i s hs hframe
  refine exec_off hs (fun hdelivers => hdelivers.not_invocation (.inr hframe)) ?_
  rintro rfl
  cases hframe

/-! ## When an operation completes (R263, R260, R204, R73)

One direction reads the effects: each says whether there was a session. The other runs the operation, in the session that
`Applicable` asks for. -/

/-- The operand contract of DISPATCH (R204): a registered type, and of the two Get types the payload's length. -/
theorem exists_dispatch_iff (t : Byte) (p : Bytes) (r : Regs) :
    (∃ r', dispatch t p r = some r') ↔ isValidType t = true ∧
      (wireTypeOf t = .getMouseData → p.length = 5) ∧ (wireTypeOf t = .getKeyboardData → p.length = 8) := by
  constructor
  · rintro ⟨r', h⟩
    rcases dispatch_cases h with ⟨ht, -⟩ | ⟨b, x, y, w, hh, rfl, rfl, -⟩ | ⟨m, p1, p2, p3, p4, p5, p6, p7, rfl, rfl, -⟩
    · have hset : ∀ t ∈ [0xAA#8, 0xAB#8, 0xAC#8, 0xAD#8, 0xBB#8, 0xBC#8],
          isValidType t = true ∧ wireTypeOf t ≠ .getMouseData ∧ wireTypeOf t ≠ .getKeyboardData := by decide
      obtain ⟨hvalid, hmouse, hkeyboard⟩ := hset t ht
      exact ⟨hvalid, fun h => absurd h hmouse, fun h => absurd h hkeyboard⟩
    · exact ⟨rfl, fun _ => rfl, nofun⟩
    · exact ⟨rfl, nofun, fun _ => rfl⟩
  · rintro ⟨hvalid, hmouse, hkeyboard⟩
    rcases code_cases t with ht | ht | ht | ht | ht | ht | ht | ht | ht
    case inr.inr.inr.inr.inr.inr.inl => exact dispatch_of_table (by simp [ht, hmouse (ht ▸ rfl), specTable]) r
    case inr.inr.inr.inr.inr.inr.inr.inl => exact dispatch_of_table (by simp [ht, hkeyboard (ht ▸ rfl), specTable]) r
    case inr.inr.inr.inr.inr.inr.inr.inr => exact absurd ((isValidType_iff t).1 hvalid) ht
    all_goals exact ⟨r, dispatch_set (by simp [ht]) p r⟩

theorem applicable_of_delivers {i : Instr} (hi : Instr.delivers i) (s : State) : Applicable i s := by
  rcases hi with hrole | ⟨t, p, rfl⟩ | ⟨b, rfl⟩ | rfl
  · cases i with
    | xorsum | xorvalid | lengthof | isvalidtype | wiretypeof | wirecode => trivial
    | _ => cases hrole
  all_goals trivial

theorem applicable_of_invocation {i : Instr} (hi : i = .invoke ∨ i.opSel = none) {s : State} (hlive : s.live = true) :
    Applicable i s := by
  rcases hi with rfl | hframe
  · exact hlive
  · cases i with
    | setMousePos | setMouseScroll | setMousePress | setMouseRelease | setKeyboardPress | setKeyboardRelease
    | getMouseData | getKeyboardData => exact hlive
    | _ => cases hframe

theorem applicable_of_exec {i : Instr} {s s' : State} (h : exec i s = .next s') : Applicable i s := by
  cases exec_effect h with
  | delivered _ hi => exact applicable_of_delivers hi s
  | received hi _ hs => exact applicable_of_invocation hi (State.live_of_on hs)
  | dispatched hs hd => exact ⟨State.live_of_on hs, (exists_dispatch_iff _ _ _).1 ⟨_, hd⟩⟩
  | started hs => exact State.live_of_off hs
  | discarded hs | drainedPointer hs | drainedScroll hs | peekedButtons hs | peekedModifier hs | peekedKeys hs | ended hs
  | sent hs | sendRejected hs | transmitted hs | transmitFailed _ hs => exact State.live_of_on hs

theorem exec_delivers_completes {i : Instr} (hi : Instr.delivers i) (s : State) : ∃ s', exec i s = .next s' := by
  obtain ⟨v, hv⟩ := exec_of_delivers hi s
  exact ⟨_, hv⟩

/-- A frame's instruction completes in a session: its operands fit the type, so DISPATCH takes them. -/
theorem exec_frame_completes {i : Instr} (hi : i.opSel = none) {s : State} {r : Regs} (hs : s.session = .on r) :
    ∃ s', exec i s = .next s' := by
  obtain ⟨t, p, hframe⟩ := exists_frameInstr hi
  obtain ⟨r', hd⟩ := dispatch_of_table (encode_of_frameInstr hframe).1 r
  exact ⟨_, exec_received hs hframe hd⟩

theorem exec_send_completes {s : State} {r : Regs} (hs : s.session = .on r) (b : Bytes) :
    ∃ s', exec (.send b) s = .next s' := by
  rw [exec_send_on hs]
  by_cases hb : validate b = true
  · exact ⟨_, sendFrame_of_valid hb s⟩
  · exact ⟨_, sendFrame_of_invalid hb s⟩

theorem exec_transmit_completes {s : State} {r : Regs} (hs : s.session = .on r) (t : Byte) (p : Bytes) :
    ∃ s', exec (.transmit t p) s = .next s' := by
  cases h : encodeFrame t p with
  | ok f => exact ⟨_, exec_transmit_of_ok hs h⟩
  | error e => exact ⟨_, exec_transmit_of_error hs h⟩

theorem exec_of_applicable {i : Instr} {s : State} (h : Applicable i s) : ∃ s', exec i s = .next s' := by
  cases i with
  | xorsum | xorvalid | lengthof | isvalidtype | wiretypeof | wirecode => exact exec_delivers_completes (.inl rfl) s
  | encode t p => exact exec_delivers_completes (.inr (.inl ⟨t, p, rfl⟩)) s
  | validate b => exact exec_delivers_completes (.inr (.inr (.inl ⟨b, rfl⟩))) s
  | parse => exact ⟨_, exec_parse s⟩
  | sessionStart => exact ⟨_, execSessionStart_off ((State.not_live_iff s).1 h)⟩
  | dispatch t p =>
    obtain ⟨hlive, hcontract⟩ := h
    obtain ⟨r, hs⟩ := (State.live_iff s).1 hlive
    obtain ⟨r', hd⟩ := (exists_dispatch_iff t p r).2 hcontract
    exact ⟨_, exec_dispatch_of_some hs hd⟩
  | setMousePos | setMouseScroll | setMousePress | setMouseRelease | setKeyboardPress | setKeyboardRelease
  | getMouseData | getKeyboardData =>
    obtain ⟨r, hs⟩ := (State.live_iff s).1 h
    exact exec_frame_completes rfl hs
  | invoke =>
    obtain ⟨r, hs⟩ := (State.live_iff s).1 h
    obtain ⟨r', res, hinvoke, -⟩ := exec_invoke_on hs
    exact ⟨_, hinvoke⟩
  | send b =>
    obtain ⟨r, hs⟩ := (State.live_iff s).1 h
    exact exec_send_completes hs b
  | transmit t p =>
    obtain ⟨r, hs⟩ := (State.live_iff s).1 h
    exact exec_transmit_completes hs t p
  | drainPointer | drainScroll | peekButtons | peekModifier | peekKeys | sessionEnd =>
    obtain ⟨r, hs⟩ := (State.live_iff s).1 h
    exact ⟨_, inSession_on hs _⟩

/-- Settles O50: `applicable_of_exec` and `exec_of_applicable`. -/
theorem operationsCompleteExactlyWhenApplicable : Obligations.OperationsCompleteExactlyWhenApplicable :=
  fun _ _ => ⟨fun ⟨_, h⟩ => applicable_of_exec h, exec_of_applicable⟩

end Sys2Proof.Machine
end

section
/-! PROOFS. What a step runs (20_memory.md, 43_parser.md): the operation presented on the request port, the frame at the front of the
inbound buffer; and the transport's record at reset. -/

namespace Sys2Proof.Machine

/-! ## The record of frames at reset (R276, R34) -/

/-- Settles O49: no frame has been handed to the transport yet. -/
theorem resetTransportRecordIsValid : Obligations.ResetTransportRecordIsValid :=
  List.forall_mem_nil _

/-! ## A request turn (R50, R63) -/

theorem step_of_request {s : State} {bytes : Bytes} {rest : List Turn} {i : Instr}
    (hagenda : s.agenda = .request bytes :: rest) (hdecode : decodeRequest bytes = .ok i) :
    step s = exec i (s.withAgenda rest) := by
  simp only [step, hagenda, hdecode]

theorem step_of_undecodable_request {s : State} {bytes : Bytes} {rest : List Turn} {why : Reject}
    (hagenda : s.agenda = .request bytes :: rest) (hdecode : decodeRequest bytes = .error why) :
    step s = .refused (.undecodable why) := by
  simp only [step, hagenda, hdecode]

/-- Settles O51: one law of a request turn for each answer of the decoder. -/
theorem stepRunsThePresentedOperation : Obligations.StepRunsThePresentedOperation := fun _ _ _ hagenda =>
  ⟨fun _ hdecode => step_of_request hagenda hdecode, fun _ hdecode => step_of_undecodable_request hagenda hdecode⟩

/-! ## A turn of the producer (R178, R182) -/

theorem fetchFrame_of_ok {b : Bytes} {i : Instr} (h : decodeFrame b = .ok i) : fetchFrame b = i := by
  simp only [fetchFrame, h]

theorem fetchFrame_of_error {b : Bytes} {why : Reject} (h : decodeFrame b = .error why) : fetchFrame b = .invoke := by
  simp only [fetchFrame, h]

/-- The turn is taken off the agenda before the frame is fetched; the buffer is not touched by that. -/
theorem step_of_serve {s : State} {rest : List Turn} (hagenda : s.agenda = .serve :: rest) :
    step s = exec (fetchFrame s.rxbuf) (s.withAgenda rest) := by
  simp only [step, hagenda, serve, State.withAgenda_rxbuf]

/-- Settles O52: the turn runs what is fetched (`step_of_serve`), which is the decoded frame or the bare INVOKE. -/
theorem stepRunsTheFrameInTheBuffer : Obligations.StepRunsTheFrameInTheBuffer := by
  intro s rest hagenda
  refine ⟨fun i hdecode => ?frame, fun why hdecode => ?noFrame⟩
  case frame =>
    rw [step_of_serve hagenda, fetchFrame_of_ok hdecode]
    rfl
  case noFrame =>
    rw [step_of_serve hagenda, fetchFrame_of_error hdecode]
    rfl

end Sys2Proof.Machine
end
